-- ==== Sys2Proof/Word.lean ====
section
/-! DEFINITION. The widths of the block: bytes, the 64-bit command word (R60) and the 16-bit pin word (R48, R62).

A pin word holds one bit per pin, bit `p` for pin `p` (R45). A bank has at most 16 pins (R6); a bit at or above `W` stands for a
pin that does not exist and is 0 in every register of the block (log 19). -/

namespace Sys2Proof

/-- A byte of a payload (R40). -/
abbrev Byte := BitVec 8

/-- A command word `cmd[63:0]` (R60). -/
abbrev Word := BitVec 64

/-- One bit per pin; masks and bank registers are compared at 16 bits (R62, R114). -/
abbrev PinWord := BitVec 16

end Sys2Proof
end

