-- ==== Sys2Proof/Config.lean ====
section
/-! DEFINITION. What an implementation fixes (the parameters of R6) and the values the spec leaves open (free values).

The parameters are a record that State carries unchanged, so that every law is stated for every record that meets R6's
constraints (log 1). The free values are constants without a body: nothing can be proved about the value of one. -/

namespace Sys2Proof

/-- The implementation parameters of R6. -/
structure Params where
  /-- number of pins in the bank -/
  w : Nat
  sckPin : Nat
  mosiPin : Nat
  misoPin : Nat
  csBase : Nat
  csMax : Nat
  /-- level of an asserted chip-select, one for the whole controller (R122, U4) -/
  csActive : Bool
  /-- largest legal port frequency in Hz; the spec leaves it OPEN (D6) -/
  fMax : Nat
  deriving DecidableEq, Repr

/-- The pin of chip-select `k` (R7). -/
def Params.csPin (c : Params) (k : Nat) : Nat := c.csBase + k

/-- The constraints of R6. That the clock and data pins lie outside the chip-select range is DEDUCED from "distinct from the
others" (log 3). -/
def Params.valid (c : Params) : Bool :=
  decide (4 ≤ c.w ∧ c.w ≤ 16 ∧ c.sckPin < c.w ∧ c.mosiPin < c.w ∧ c.misoPin < c.w
    ∧ c.sckPin ≠ c.mosiPin ∧ c.sckPin ≠ c.misoPin ∧ c.mosiPin ≠ c.misoPin
    ∧ c.csBase + c.csMax ≤ c.w ∧ 1 ≤ c.csMax ∧ c.csMax ≤ c.w - 3
    ∧ ¬ (c.csBase ≤ c.sckPin ∧ c.sckPin < c.csBase + c.csMax)
    ∧ ¬ (c.csBase ≤ c.mosiPin ∧ c.mosiPin < c.csBase + c.csMax)
    ∧ ¬ (c.csBase ≤ c.misoPin ∧ c.misoPin < c.csBase + c.csMax)
    ∧ 1 ≤ c.fMax ∧ c.fMax ≤ 2 ^ 32 - 1)

/-- The column "default" of R6 (PRESUMED, log 1); `fMax` has no default there, and 30 MHz is the family's figure that R6
mentions (PRESUMED, log 2). -/
def Params.default : Params where
  w := 8
  sckPin := 0
  mosiPin := 1
  misoPin := 2
  csBase := 3
  csMax := 5
  csActive := false
  fMax := 30000000

/-- `MAX_LEN` of R6: the largest byte count of one phase, fixed by the 16-bit length fields. -/
def maxLen : Nat := 65535

/-- The positions of the sequencer (R30). -/
inductive SeqState where
  | idle
  | setup
  | select
  | shift
  | deselect
  | park
  deriving DecidableEq, Repr, Inhabited

/-- What the environment answers on each pin when no answer has been lined up for it (U9, log 8); the argument is the count of
free values drawn so far. -/
opaque Config.freeEnv : Nat → PinWord

/-- `device_present` when no answer has been lined up for it (R32 (d), D37, log 9); the argument counts its free answers. -/
opaque Config.freeDevice : Nat → Bool

/-- `link_ok` when no answer has been lined up for it (R32 (e), R184, log 9); the argument counts its free answers. -/
opaque Config.freeLink : Nat → Bool

/-- `DRV` after a TransportError, at the pins the operation could have written (R184, U2, log 11). -/
opaque Config.freeDrive : Nat → PinWord

/-- `OE` after a failed GPIO_SET_DIRECTION, at the pins it named (R184, U2, log 11). -/
opaque Config.freeEnable : Nat → PinWord

/-- `ACTIVE_CS` after a TransportError (R184, U2, log 11). -/
opaque Config.freeSelect : Nat → Option Nat

/-- `SEQ.st` after a TransportError (R184, U2, log 11). -/
opaque Config.freeSeqState : Nat → SeqState

/-- `SEQ.port`, `SEQ.n` and `SEQ.j` after a TransportError, before they are cut to their ranges (R184, U2, log 11). -/
opaque Config.freePort : Nat → Nat

opaque Config.freePulses : Nat → Nat

opaque Config.freeDone : Nat → Nat

end Sys2Proof
end

