-- ==== Sys2Proof/Syntax.lean ====
section
/-! DEFINITION. The ten operations of the block as syntax, one constructor per row of the opcode map (R63).

A field of a command word keeps its encoded width (R62), so an operand can hold every value the word can and no other; the
payload of SPI_WRITE and SPI_EXCHANGE is an operand (R140, R144). -/

namespace Sys2Proof

/-- Bit order of a port (R44): which bit of a byte is clocked first. -/
inductive BitOrder where
  | msbFirst
  | lsbFirst
  deriving DecidableEq, Repr

/-- Clock mode of a port, "one of four standard combinations" (R120). -/
inductive Mode where
  | mode0
  | mode1
  | mode2
  | mode3
  deriving DecidableEq, Repr

/-- The ten operations (R63). -/
inductive Instr where
  /-- R80; format C -/
  | configure (csCount : BitVec 8)
  /-- R82; format P; `freq` in Hz -/
  | getPort (index : BitVec 8) (freq : BitVec 32) (mode : Mode) (order : BitOrder)
  /-- R84; format N -/
  | getGpio
  /-- R86; format N -/
  | terminate
  /-- R140; format X; `droptail` is signed (R62) -/
  | spiWrite (index : BitVec 8) (data : List Byte) (droptail : BitVec 8)
  /-- R142; format X -/
  | spiRead (index : BitVec 8) (length : BitVec 16) (droptail : BitVec 8)
  /-- R144; format X -/
  | spiExchange (index : BitVec 8) (dataOut : List Byte) (lengthIn : BitVec 16) (duplex : Bool) (droptail : BitVec 8)
  /-- R160; format G -/
  | gpioSetDirection (pinMask : PinWord) (outputMask : PinWord)
  /-- R163; format G -/
  | gpioWrite (value : PinWord)
  /-- R166; format N -/
  | gpioRead
  deriving DecidableEq, Repr

end Sys2Proof
end

