-- ==== Sys2Proof/WellFormed.lean ====
section
/-! DEFINITION. Which instructions have an encoding.

The fields have their encoded widths by type, so the one condition left is on the payload: its length must be a value of the
16-bit field `len_out` (R60, R62). -/

namespace Sys2Proof

/-- The payload bytes an instruction carries (R60: for SPI_WRITE and SPI_EXCHANGE only). -/
def Instr.payload : Instr → List Byte
  | .spiWrite _ data _ => data
  | .spiExchange _ dataOut _ _ _ => dataOut
  | .configure _ => []
  | .getPort _ _ _ _ => []
  | .getGpio => []
  | .terminate => []
  | .spiRead _ _ _ => []
  | .gpioSetDirection _ _ => []
  | .gpioWrite _ => []
  | .gpioRead => []

/-- The instruction can be written as a command: `0 ≤ len_out ≤ MAX_LEN` (R62). -/
def Instr.wellFormed (i : Instr) : Bool := decide (i.payload.length ≤ maxLen)

end Sys2Proof
end

