-- ==== Sys2Proof/Decode.lean ====
section
/-! DEFINITION. The command encoding (30_encoding.md): the opcode map as a table of masks and patterns (R63), the decoder from
the bytes on the command port, and the encoder.

The command word goes on the port least significant byte first (R45), the payload after it in index order (R60). -/

namespace Sys2Proof

/-- The rows of the opcode map (R63). -/
inductive Op where
  | configure
  | getPort
  | getGpio
  | terminate
  | spiWrite
  | spiRead
  | spiExchange
  | gpioSetDirection
  | gpioWrite
  | gpioRead
  deriving DecidableEq, Repr

/-- All rows, in the order of R63. -/
def Op.all : List Op :=
  [.configure, .getPort, .getGpio, .terminate, .spiWrite, .spiRead, .spiExchange, .gpioSetDirection, .gpioWrite, .gpioRead]

/-- Column "match" of R63. -/
def Op.pattern : Op → Word
  | .configure => 0x0100000000000000#64
  | .getPort => 0x0200000000000000#64
  | .getGpio => 0x0300000000000000#64
  | .terminate => 0x0400000000000000#64
  | .spiWrite => 0x1000000000000000#64
  | .spiRead => 0x1100000000000000#64
  | .spiExchange => 0x1200000000000000#64
  | .gpioSetDirection => 0x2000000000000000#64
  | .gpioWrite => 0x2100000000000000#64
  | .gpioRead => 0x2200000000000000#64

/-- Column "mask" of R63. -/
def Op.mask : Op → Word
  | .configure => 0xFFFFFFFFFFFFFF00#64
  | .getPort => 0xFF00F8FF00000000#64
  | .getGpio => 0xFFFFFFFFFFFFFFFF#64
  | .terminate => 0xFFFFFFFFFFFFFFFF#64
  | .spiWrite => 0xFF0000FF0000FFFF#64
  | .spiRead => 0xFF0000FFFFFF0000#64
  | .spiExchange => 0xFF0000FE00000000#64
  | .gpioSetDirection => 0xFFFFFFFF00000000#64
  | .gpioWrite => 0xFFFFFFFFFFFF0000#64
  | .gpioRead => 0xFFFFFFFFFFFFFFFF#64

/-- "A word selects an operation when `cmd & mask = match`" (R63). -/
def Op.selects (o : Op) (w : Word) : Bool := w &&& o.mask == o.pattern

/-- The operation a word selects, if any. -/
def selectedOp (w : Word) : Option Op := Op.all.find? (fun o => o.selects w)

/-- The opcode byte `cmd[63:56]` (R60). -/
def opcodeOf (w : Word) : Byte := w.extractLsb' 56 8

/-- `cmd[41:40]` as a mode (R62). -/
def modeOfBits (b : BitVec 2) : Mode :=
  if b = 0#2 then .mode0 else if b = 1#2 then .mode1 else if b = 2#2 then .mode2 else .mode3

/-- The two bits of a mode (R120). -/
def modeBits : Mode → BitVec 2
  | .mode0 => 0#2
  | .mode1 => 1#2
  | .mode2 => 2#2
  | .mode3 => 3#2

/-- `cmd[42]` as a bit order: 0 is MSB first (R62). -/
def orderOfBit (b : Bool) : BitOrder := if b then .lsbFirst else .msbFirst

/-- The bit of a bit order (R62). -/
def orderBit : BitOrder → Bool
  | .msbFirst => false
  | .lsbFirst => true

/-- How many payload bytes follow a word of this row: `len_out = cmd[31:16]` for SPI_WRITE and SPI_EXCHANGE, else none (R60). -/
def payloadLength (o : Op) (w : Word) : Nat :=
  match o with
  | .spiWrite => (w.extractLsb' 16 16).toNat
  | .spiExchange => (w.extractLsb' 16 16).toNat
  | .configure => 0
  | .getPort => 0
  | .getGpio => 0
  | .terminate => 0
  | .spiRead => 0
  | .gpioSetDirection => 0
  | .gpioWrite => 0
  | .gpioRead => 0

/-- The instruction of a row, its operands read from the word's fields (R61, R62) and its payload. -/
def instrOf (o : Op) (w : Word) (payload : List Byte) : Instr :=
  match o with
  | .configure => .configure (w.extractLsb' 0 8)
  | .getPort =>
    .getPort (w.extractLsb' 48 8) (w.extractLsb' 0 32) (modeOfBits (w.extractLsb' 40 2)) (orderOfBit (w.getLsbD 42))
  | .getGpio => .getGpio
  | .terminate => .terminate
  | .spiWrite => .spiWrite (w.extractLsb' 48 8) payload (w.extractLsb' 40 8)
  | .spiRead => .spiRead (w.extractLsb' 48 8) (w.extractLsb' 0 16) (w.extractLsb' 40 8)
  | .spiExchange =>
    .spiExchange (w.extractLsb' 48 8) payload (w.extractLsb' 0 16) (w.getLsbD 32) (w.extractLsb' 40 8)
  | .gpioSetDirection => .gpioSetDirection (w.extractLsb' 16 16) (w.extractLsb' 0 16)
  | .gpioWrite => .gpioWrite (w.extractLsb' 0 16)
  | .gpioRead => .gpioRead

/-- The bytes of a command word in the order of the port, least significant first (R45). -/
def wordBytes (w : Word) : List Byte :=
  [w.extractLsb' 0 8, w.extractLsb' 8 8, w.extractLsb' 16 8, w.extractLsb' 24 8,
   w.extractLsb' 32 8, w.extractLsb' 40 8, w.extractLsb' 48 8, w.extractLsb' 56 8]

/-- The word whose bytes, least significant first, are the arguments. -/
def wordOfBytes (b0 b1 b2 b3 b4 b5 b6 b7 : Byte) : Word := b7 ++ b6 ++ b5 ++ b4 ++ b3 ++ b2 ++ b1 ++ b0

/-- What the decoder finds at the front of the command port. -/
inductive Decoded where
  /-- a whole command, and the bytes behind it -/
  | command (i : Instr) (rest : List Byte)
  /-- the word or its payload is not all there yet -/
  | incomplete
  /-- an opcode outside the ten (R69), and the bytes behind the word -/
  | unassignedOpcode (opcode : Byte) (rest : List Byte)
  /-- one of the ten opcodes with a must-be-zero field that is not zero (R69), and the bytes behind the word -/
  | reservedField (opcode : Byte) (rest : List Byte)
  deriving DecidableEq, Repr

/-- Decode a command word with the bytes behind it (R60, R63, R69). -/
def decodeWord (w : Word) (tail : List Byte) : Decoded :=
  match selectedOp w with
  | some o =>
    if payloadLength o w ≤ tail.length then
      .command (instrOf o w (tail.take (payloadLength o w))) (tail.drop (payloadLength o w))
    else .incomplete
  | none =>
    if Op.all.any (fun o => opcodeOf o.pattern == opcodeOf w) then .reservedField (opcodeOf w) tail
    else .unassignedOpcode (opcodeOf w) tail

/-- Decode the front of the command port. -/
def decode : List Byte → Decoded
  | b0 :: b1 :: b2 :: b3 :: b4 :: b5 :: b6 :: b7 :: tail => decodeWord (wordOfBytes b0 b1 b2 b3 b4 b5 b6 b7) tail
  | _ => .incomplete

/-- A field placed at its lowest bit. -/
def place {n : Nat} (x : BitVec n) (lo : Nat) : Word := x.setWidth 64 <<< lo

/-- The command word of an instruction, from the formats of R61. -/
def commandWord : Instr → Word
  | .configure n => place 0x01#8 56 ||| place n 0
  | .getPort index freq mode order =>
    place 0x02#8 56 ||| place index 48 ||| place (BitVec.ofBool (orderBit order)) 42 ||| place (modeBits mode) 40 ||| place freq 0
  | .getGpio => place 0x03#8 56
  | .terminate => place 0x04#8 56
  | .spiWrite index data droptail =>
    place 0x10#8 56 ||| place index 48 ||| place droptail 40 ||| place (BitVec.ofNat 16 data.length) 16
  | .spiRead index length droptail => place 0x11#8 56 ||| place index 48 ||| place droptail 40 ||| place length 0
  | .spiExchange index dataOut lengthIn duplex droptail =>
    place 0x12#8 56 ||| place index 48 ||| place droptail 40 ||| place (BitVec.ofBool duplex) 32
      ||| place (BitVec.ofNat 16 dataOut.length) 16 ||| place lengthIn 0
  | .gpioSetDirection pinMask outputMask => place 0x20#8 56 ||| place pinMask 16 ||| place outputMask 0
  | .gpioWrite value => place 0x21#8 56 ||| place value 0
  | .gpioRead => place 0x22#8 56

/-- The bytes of an instruction on the command port: its word, then its payload (R60). -/
def encode (i : Instr) : List Byte := wordBytes (commandWord i) ++ i.payload

/-- The row of R63 an instruction belongs to. -/
def Instr.op : Instr → Op
  | .configure _ => .configure
  | .getPort _ _ _ _ => .getPort
  | .getGpio => .getGpio
  | .terminate => .terminate
  | .spiWrite _ _ _ => .spiWrite
  | .spiRead _ _ _ => .spiRead
  | .spiExchange _ _ _ _ _ => .spiExchange
  | .gpioSetDirection _ _ => .gpioSetDirection
  | .gpioWrite _ => .gpioWrite
  | .gpioRead => .gpioRead

/-- The bytes of a command word given as a number of `nbits` bits, with a payload of zeros where the word asks for one. -/
def tableBytes (nbits w : Nat) : List Byte :=
  let cmd : Word := BitVec.ofNat 64 (w % 2 ^ nbits)
  wordBytes cmd ++ List.replicate (match selectedOp cmd with | some o => payloadLength o cmd | none => 0) 0#8

/-- The instruction the decoder reads from a word of the opcode table. -/
def decodeTableWord (nbits w : Nat) : Option Instr :=
  match decode (tableBytes nbits w) with
  | .command i _ => some i
  | .incomplete => none
  | .unassignedOpcode _ _ => none
  | .reservedField _ _ => none

end Sys2Proof
end

