-- ==== Sys2Proof/Machine/State.lean ====
section
/-! DEFINITION. The state of the block (R10), its interface (R5, R32) and the state after reset (R35). -/

namespace Sys2Proof.Machine

/-- Who has claimed a pin (R13). -/
inductive Owner where
  | free
  | sck
  | mosi
  | miso
  | cs (k : Nat)
  | gpio
  deriving DecidableEq, Repr

/-- The descriptor of a port (R16). -/
structure Port where
  valid : Bool
  mode : Mode
  order : BitOrder
  freq : BitVec 32
  deriving DecidableEq, Repr

/-- The sequencer's position inside a transfer, in place of a program counter (R30). -/
structure Seq where
  st : SeqState
  port : Nat
  n : Nat
  j : Nat
  deriving DecidableEq, Repr

/-- A response: the 32-bit word and the payload (R71). -/
structure Response where
  word : BitVec 32
  payload : List Byte
  deriving DecidableEq, Repr

/-- What a micro-step leaves behind: the pin latches, the asserted select, the sequencer and the sample it took of MISO, if it
took one (R124, R125). -/
structure MicroStep where
  drv : PinWord
  oe : PinWord
  activeCs : Option Nat
  seq : Seq
  sample : Option Bool
  deriving DecidableEq, Repr

/-- An entry of the history of pin events (R125). -/
inductive PinEvent where
  | micro (m : MicroStep)
  /-- an operation that the link broke: which of its micro-steps ran is not said (R130, R184) -/
  | lost
  deriving DecidableEq, Repr

/-- A one-bit input that an operation asks (R32 (d), (e)): the answers lined up, one per question, oldest first, and how many free
answers have been given since there was none lined up (log 9). -/
structure Line where
  answers : List Bool
  drawn : Nat
  deriving DecidableEq, Repr

/-- The state of the block (R10), then the ports through which the outside acts on it (R5, R32), then the model's own fields. -/
structure State where
  /-- the parameters of R6; no step changes them (log 1) -/
  par : Params
  /-- `OPEN` (R11) -/
  isOpen : Bool
  /-- `CS_COUNT` (R12) -/
  csCount : BitVec 8
  /-- `OWNER[p]` for `p` in `0 .. W-1` (R13) -/
  owner : List Owner
  /-- `GPIO_CLAIMED` (R15) -/
  gpioClaimed : Bool
  /-- `PORT[k]` for `k` in `0 .. CS_MAX-1` (R16) -/
  ports : List Port
  /-- `DIR` (R18) -/
  dir : PinWord
  /-- `OUT` (R19) -/
  out : PinWord
  /-- `DRV[p]` (R21) -/
  drv : PinWord
  /-- `OE[p]` (R21) -/
  oe : PinWord
  /-- `ACTIVE_CS` (R23) -/
  activeCs : Option Nat
  /-- `SEQ` (R30) -/
  seq : Seq
  /-- command port: the bytes of the commands the host has issued, oldest first (R5, log 4) -/
  cmdIn : List Byte
  /-- response port: the answer to the last command (R5, log 7) -/
  rsp : Option Response
  /-- `device_present`, asked by CONFIGURE (R32 (d), log 9) -/
  device : Line
  /-- `link_ok`, asked by each operation that touches pins (R32 (e), R184, log 9) -/
  link : Line
  /-- the levels the environment will answer with, one pin word per micro-step that asks, oldest first (R32 (c), log 8) -/
  envIn : List PinWord
  /-- reset input: `some k`, it acts once `k` micro-steps of the next operation have run (R211, log 18) -/
  resetIn : Option Nat
  /-- the model's own: how many free values have been drawn (log 11) -/
  fresh : Nat
  /-- the model's own: a TransportError has happened since reset or the last TERMINATE (R184, U2, log 12) -/
  faulted : Bool
  /-- the model's own: the pin events so far, oldest first (R125, log 14) -/
  history : List PinEvent
  deriving DecidableEq, Repr

/-- Why a step faults. The four error classes of R180 are answers and no faults (R190); after a TransportError the run has gone
wrong (R184, U2). -/
inductive Fault where
  /-- raised by a step that finds a command other than TERMINATE on the command port after a TransportError, before TERMINATE or a
  reset: "The only operation with a defined result after it is TERMINATE" (R184); safe: nothing is claimed where the hardware may
  go on (log 13) -/
  | afterTransportError
  deriving DecidableEq, Repr

/-- The one refusal of the model. -/
inductive Refusal where
  /-- raised by an arm of `exec` that has no meaning yet; safe: nothing is claimed about the instruction -/
  | notModelled (mnemonic : String)
  deriving DecidableEq, Repr

/-- A port that GET_PORT has not created. `valid` is 0 (R35); the other three fields are unspecified and read by no rule while
`valid` is 0, and the values here are a DESIGN CHOICE (log 16). -/
def Port.reset : Port where
  valid := false
  mode := .mode0
  order := .msbFirst
  freq := 0#32

/-- The sequencer after reset (R35); `port` is unspecified there, and 0 is a DESIGN CHOICE (log 17). -/
def Seq.reset : Seq where
  st := .idle
  port := 0
  n := 0
  j := 0

/-- The block with parameters `c` right after reset (R35, R210). The interface fields are the model's choice: nothing on either
port (log 4, log 7), no answers lined up (log 8, log 9), no reset (log 18). -/
def State.resetWith (c : Params) : State where
  par := c
  isOpen := false
  csCount := 0#8
  owner := List.replicate c.w .free
  gpioClaimed := false
  ports := List.replicate c.csMax Port.reset
  dir := 0#16
  out := 0#16
  drv := 0#16
  oe := 0#16
  activeCs := none
  seq := Seq.reset
  cmdIn := []
  rsp := none
  device := ⟨[], 0⟩
  link := ⟨[], 0⟩
  envIn := []
  resetIn := none
  fresh := 0
  faulted := false
  history := []

/-- The machine right after reset, with the default parameters (R6, log 1). -/
def State.reset : State := State.resetWith Params.default

end Sys2Proof.Machine
end

