-- ==== Sys2Proof/Machine/Flags.lean ====
section
/-! DEFINITION. The outcome of an operation.

The block has no status flag, no condition code and no sticky error bit (R31): the outcome stands in the response word and
nowhere else. This file holds what the response says: the error classes and their codes (R180) and the layout of the word (R71). -/

namespace Sys2Proof.Machine

/-- The four error classes (R180). -/
inductive ErrorClass where
  | configuration
  | invalidArgument
  | gpioConflict
  | transport
  deriving DecidableEq, Repr

/-- `rsp[31:24]` of an error (R180). -/
def ErrorClass.code : ErrorClass → BitVec 8
  | .configuration => 1#8
  | .invalidArgument => 2#8
  | .gpioConflict => 3#8
  | .transport => 4#8

/-- The response word: status in `rsp[31:24]`, 0 in `rsp[23:16]`, value in `rsp[15:0]` (R71). -/
def responseWord (status : BitVec 8) (value : BitVec 16) : BitVec 32 := status ++ 0#8 ++ value

/-- `return OK(v, bytes)` (R8): status 0. -/
def okResponse (value : BitVec 16) (payload : List Byte) : Response where
  word := responseWord 0#8 value
  payload := payload

/-- The response of an error: its code, value 0, no payload (R71, R185). -/
def errorResponse (e : ErrorClass) : Response where
  word := responseWord e.code 0#16
  payload := []

/-- `rsp[31:24]`. -/
def Response.status (r : Response) : BitVec 8 := r.word.extractLsb' 24 8

/-- `rsp[15:0]`. -/
def Response.value (r : Response) : BitVec 16 := r.word.extractLsb' 0 16

end Sys2Proof.Machine
end

