-- ==== Sys2Proof/Machine/Ops.lean ====
section
/-! DEFINITION. The operations the meanings share: pin words, the pin primitives of R46, the ledger's masks (R14), the micro-step
record, giving a response, raising an error (R190), and the end of an operation that the link broke (R184). -/

namespace Sys2Proof.Machine

/-! ### Pin words -/

/-- The pin word with bit `p` alone. -/
def pinBit (p : Nat) : PinWord := 1#16 <<< p

/-- The pin word that holds one level at every pin. -/
def pinFill (v : Bool) : PinWord := if v then 0xFFFF#16 else 0#16

/-- `new` at the pins of `m`, `old` at the others. -/
def mergePins (m new old : PinWord) : PinWord := (old &&& ~~~m) ||| (new &&& m)

/-- `x` with level `v` at pin `p`. -/
def setPin (p : Nat) (v : Bool) (x : PinWord) : PinWord := mergePins (pinBit p) (pinFill v) x

/-- The pin word of the pins below `n` that `f` holds of. -/
def pinsWhere (f : Nat → Bool) : Nat → PinWord
  | 0 => 0#16
  | n + 1 => if f n then pinsWhere f n ||| pinBit n else pinsWhere f n

/-! ### The ledger and the port table -/

/-- `OWNER[p]` (R13). -/
def State.ownerOf (s : State) (p : Nat) : Owner := s.owner.getD p .free

/-- An SPI role (R14). -/
def Owner.isSpi : Owner → Bool
  | .sck => true
  | .mosi => true
  | .miso => true
  | .cs _ => true
  | .free => false
  | .gpio => false

/-- `SPI_CLAIM` (R14). -/
def State.spiClaim (s : State) : PinWord := pinsWhere (fun p => (s.ownerOf p).isSpi) s.par.w

/-- `GPIO_CLAIM`, zero-extended to 16 bits (R14). -/
def State.gpioClaim (s : State) : PinWord := pinsWhere (fun p => s.ownerOf p == .gpio) s.par.w

/-- `PORT[k]` (R16). -/
def State.portAt (s : State) (k : Nat) : Port := s.ports.getD k Port.reset

/-- Some port below `CS_COUNT` has been created (R84). -/
def State.anyPort (s : State) : Bool := (List.range s.csCount.toNat).any (fun k => (s.portAt k).valid)

/-! ### The pin primitives (R46) -/

/-- `PinDrive` at the pins of `m` together: `DRV[p] <- v[p]`, `OE` as it is. -/
def State.drivePins (m v : PinWord) (s : State) : State := { s with drv := mergePins m v s.drv }

/-- `PinDrive(p, v)`. -/
def State.pinDrive (p : Nat) (v : Bool) (s : State) : State := { s with drv := setPin p v s.drv }

/-- `PinEnable` at the pins of `m` together: `OE[p] <- e[p]`. -/
def State.enablePins (m e : PinWord) (s : State) : State := { s with oe := mergePins m e s.oe }

/-- `PinEnable(p, e)`. -/
def State.pinEnable (p : Nat) (e : Bool) (s : State) : State := { s with oe := setPin p e s.oe }

/-- What the environment answers, on each pin, to the next question (R46, U9, log 8). -/
def State.envNow (s : State) : PinWord :=
  match s.envIn with
  | w :: _ => w
  | [] => Config.freeEnv s.fresh

/-- The question has been asked: the next one gets a fresh answer (R46). -/
def State.envAsked (s : State) : State :=
  match s.envIn with
  | _ :: ws => { s with envIn := ws }
  | [] => { s with fresh := s.fresh + 1 }

/-- `PIN[p]` of R22 for every pin: the driven level where the block drives, else the environment's. -/
def pinLevels (drv oe env : PinWord) : PinWord := mergePins oe drv env

/-- `PinSample` at the pins of `m` in one micro-step; the environment is asked where one of them is not driven (R22, R46). -/
def State.samplePins (m : PinWord) (s : State) : PinWord × State :=
  if m &&& ~~~s.oe = 0#16 then (s.drv &&& m, s) else (pinLevels s.drv s.oe s.envNow &&& m, s.envAsked)

/-- `PinSample(p)`. -/
def State.pinSample (p : Nat) (s : State) : Bool × State :=
  ((s.samplePins (pinBit p)).1.getLsbD p, (s.samplePins (pinBit p)).2)

/-! ### The device and the link (R32) -/

/-- The answer to the next question; `free` gives it when none is lined up (log 9). -/
def Line.now (free : Nat → Bool) (l : Line) : Bool :=
  match l.answers with
  | b :: _ => b
  | [] => free l.drawn

/-- The question has been asked. -/
def Line.asked (l : Line) : Line :=
  match l.answers with
  | _ :: bs => { l with answers := bs }
  | [] => { l with drawn := l.drawn + 1 }

/-- `device_present`, the answer to the next CONFIGURE that asks. -/
def State.devicePresent (s : State) : Bool := s.device.now Config.freeDevice

/-- CONFIGURE has asked for the device. -/
def State.deviceAsked (s : State) : State := { s with device := s.device.asked }

/-- `link_ok`, the answer to the next operation that asks. -/
def State.linkOk (s : State) : Bool := s.link.now Config.freeLink

/-- An operation has asked for the link. -/
def State.linkAsked (s : State) : State := { s with link := s.link.asked }

/-- `link_ok` is "asked once per operation after every other check has passed" (R184): the link fails, or the operation runs. -/
def State.askLink (failure body : State → State) (s : State) : State :=
  if s.linkOk = false then failure s.linkAsked else body s.linkAsked

/-! ### Micro-steps -/

/-- A micro-step ends: the history takes the latches as it leaves them. Which of these the environment sees is `environmentView`'s to
say (R125). -/
def State.record (sample : Option Bool) (s : State) : State :=
  { s with history := s.history ++ [.micro ⟨s.drv, s.oe, s.activeCs, s.seq, sample⟩] }

/-! ### Responses and errors -/

/-- The response is given (R71). -/
def State.answer (r : Response) (s : State) : State := { s with rsp := some r }

/-- `return OK(v, bytes)` (R8). -/
def State.answerOk (value : BitVec 16) (payload : List Byte) (s : State) : State := s.answer (okResponse value payload)

/-- `raise E` (R8, R190): the response carries the code, no state changes, no pin changes. There is no return beside it: nothing
was entered (R191). -/
def State.raise (e : ErrorClass) (s : State) : State := s.answer (errorResponse e)

/-- `ACTIVE_CS` after a TransportError: any value of its range (R184, R10, log 11). -/
def unknownSelect (c : Params) (n : Nat) : Option Nat := (Config.freeSelect n).filter (fun k => decide (k < c.csMax))

/-- `SEQ` after a TransportError: any value of its ranges (R184, R30, log 11). -/
def unknownSeq (c : Params) (n : Nat) : Seq where
  st := Config.freeSeqState n
  port := Config.freePort n % c.csMax
  n := Config.freePulses n % (16 * maxLen + 1)
  j := Config.freeDone n % (Config.freePulses n % (16 * maxLen + 1) + 1)

/-- The link fails during an operation that could have written `DRV` at the pins of `driven` and `OE` at those of `enabled`
(R184, U2): TransportError is answered, the registers are as before, and those latches, `ACTIVE_CS` and `SEQ` take free values
(log 10, log 11). -/
def State.linkFailure (driven enabled : PinWord) (s : State) : State :=
  { s with
    drv := mergePins driven (Config.freeDrive s.fresh) s.drv
    oe := mergePins enabled (Config.freeEnable s.fresh) s.oe
    activeCs := unknownSelect s.par s.fresh
    seq := unknownSeq s.par s.fresh
    fresh := s.fresh + 1
    faulted := true
    history := s.history ++ [.lost]
    rsp := some (errorResponse .transport) }

/-! ### Commands and reset -/

/-- The answer to an illegal word: InvalidArgumentError, no effect; the word leaves the port and no payload is taken (R69,
log 6). -/
def State.refuseWord (rest : List Byte) (s : State) : State := { s with cmdIn := rest, rsp := some (errorResponse .invalidArgument) }

/-- Reset acts after `k` micro-steps of the operation that would have taken the block from `s` to `t` (R211): it ends without a
response, the pins go undriven at once and no state survives. What the outside holds is kept: the commands and answers still to
come (log 18). -/
def resetInside (k : Nat) (s t : State) : State :=
  { State.resetWith s.par with
    cmdIn := t.cmdIn
    device := t.device
    link := t.link
    envIn := t.envIn
    fresh := t.fresh
    history := s.history ++ (t.history.drop s.history.length).take k ++ [.micro ⟨0#16, 0#16, none, Seq.reset, none⟩] }

end Sys2Proof.Machine
end

