-- ==== Sys2Proof/Machine/BitEngine.lean ====
section
/-! DEFINITION. The bit-engine (41_bitengine.md): pure functions from bytes to the bit train and back, with droptail. It has no
state, touches no pin and asks the environment nothing (R100). -/

namespace Sys2Proof.Machine

/-- `keep(d)`: the significant bits of a last byte (R102). -/
def keep (d : Nat) : Byte := 0xFF#8 <<< d

/-- `trim(data, d)`: the last byte loses its `d` low bits (R103). -/
def trim : List Byte → Nat → List Byte
  | [], _ => []
  | [b], d => [b &&& keep d]
  | b :: c :: rest, d => b :: trim (c :: rest) d

/-- `ser(order, b)`: the bits of a byte in wire order (R104). -/
def ser (order : BitOrder) (b : Byte) : List Bool :=
  match order with
  | .msbFirst =>
    [b.getLsbD 7, b.getLsbD 6, b.getLsbD 5, b.getLsbD 4, b.getLsbD 3, b.getLsbD 2, b.getLsbD 1, b.getLsbD 0]
  | .lsbFirst =>
    [b.getLsbD 0, b.getLsbD 1, b.getLsbD 2, b.getLsbD 3, b.getLsbD 4, b.getLsbD 5, b.getLsbD 6, b.getLsbD 7]

/-- `bits(order, data)` (R105): byte 0 goes first (R43). -/
def bits (order : BitOrder) (data : List Byte) : List Bool := data.flatMap (ser order)

/-- A byte from its bits, bit 7 first. -/
def byteOfBits (b7 b6 b5 b4 b3 b2 b1 b0 : Bool) : Byte :=
  BitVec.ofBool b7 ++ BitVec.ofBool b6 ++ BitVec.ofBool b5 ++ BitVec.ofBool b4
    ++ BitVec.ofBool b3 ++ BitVec.ofBool b2 ++ BitVec.ofBool b1 ++ BitVec.ofBool b0

/-- The byte whose wire order is the eight bits given (R106). -/
def deserByte (order : BitOrder) (t0 t1 t2 t3 t4 t5 t6 t7 : Bool) : Byte :=
  match order with
  | .msbFirst => byteOfBits t0 t1 t2 t3 t4 t5 t6 t7
  | .lsbFirst => byteOfBits t7 t6 t5 t4 t3 t2 t1 t0

/-- `deser(order, s)` (R106), applied to lists whose length is a multiple of 8 only. -/
def deser (order : BitOrder) : List Bool → List Byte
  | t0 :: t1 :: t2 :: t3 :: t4 :: t5 :: t6 :: t7 :: rest =>
    deserByte order t0 t1 t2 t3 t4 t5 t6 t7 :: deser order rest
  | _ => []

/-- `zeros(8 * L)`: the train of a phase that sends nothing of its own (R108). -/
def zeros (bytes : Nat) : List Bool := List.replicate (8 * bytes) false

/-- `txbits(order, data, d)` (R108). -/
def txbits (order : BitOrder) (data : List Byte) (d : Nat) : List Bool := bits order (trim data d)

/-- `rxbytes(order, s, d)` (R109). -/
def rxbytes (order : BitOrder) (samples : List Bool) (d : Nat) : List Byte := trim (deser order samples) d

end Sys2Proof.Machine
end

