-- ==== Sys2Proof/Machine/Operands.lean ====
section
/-! DEFINITION. The operand forms: droptail as a signed number and its validity (R62, R112), the trailing phase of an exchange
(R144), and the checks that stand before the effects (R146, R168), in the order of R187. -/

namespace Sys2Proof.Machine

/-- `droptail = sext_8(cmd[47:40])` (R62). -/
def droptailOf (d : BitVec 8) : Int := d.toInt

/-- `valid_droptail(d)` (R112). -/
def validDroptail (d : Int) : Bool := decide (0 ≤ d ∧ d ≤ 7)

/-- The droptail of a transfer that passed its checks, as the number of dropped bits. -/
def dropCount (d : BitVec 8) : Nat := (droptailOf d).toNat

/-- The byte count of the trailing phase of an exchange (R144): the read phase of a half-duplex exchange that has one, else the
bytes sent. -/
def trailingLength (lenOut : Nat) (lengthIn : BitVec 16) (duplex : Bool) : Nat :=
  if duplex = false ∧ 0 < lengthIn.toNat then lengthIn.toNat else lenOut

/-- Checks 1 to 5 of `check_xfer(index, d, L)` (R146): the first that fails, if any. The link is check 6 and is asked last. -/
def checkXfer (index : BitVec 8) (d : BitVec 8) (len : Nat) (s : State) : Option ErrorClass :=
  if droptailOf d < 0 ∨ 7 < droptailOf d then some .invalidArgument
  else if len = 0 ∧ 0 < droptailOf d then some .invalidArgument
  else if s.isOpen = false then some .configuration
  else if s.csCount.toNat ≤ index.toNat then some .configuration
  else if (s.portAt index.toNat).valid = false then some .configuration
  else none

/-- `check_gpio()` (R168). -/
def checkGpio (s : State) : Option ErrorClass :=
  if s.isOpen = false then some .configuration
  else if s.gpioClaimed = false then some .configuration
  else none

end Sys2Proof.Machine
end

