-- ==== Sys2Proof/Machine/Sequencer.lean ====
section
/-! DEFINITION. Clock modes and the chip-select sequencer (42_cs_sequencer.md): the procedure `XFER` as its micro-steps (R124).

A micro-step sets its latches, takes its sample of the levels it leaves, and is recorded. -/

namespace Sys2Proof.Machine

/-- Idle level of the clock (R120). -/
def cpol : Mode → Bool
  | .mode0 => false
  | .mode1 => false
  | .mode2 => true
  | .mode3 => true

/-- Phase: 0 samples on the leading edge, 1 on the trailing edge (R120). -/
def cpha : Mode → Bool
  | .mode0 => false
  | .mode1 => true
  | .mode2 => false
  | .mode3 => true

/-- A micro-step that ends with a sample of MISO (R46, R124). -/
def State.sampleMiso (s : State) : Bool × State :=
  ((s.pinSample s.par.misoPin).1, (s.pinSample s.par.misoPin).2.record (some (s.pinSample s.par.misoPin).1))

/-- T1: the clock to this port's idle level, MOSI low, before the select. -/
def setupStep (k n : Nat) (m : Mode) (s : State) : State :=
  State.record none ({ s with seq := ⟨.setup, k, n, 0⟩ } |>.pinDrive s.par.sckPin (cpol m) |>.pinDrive s.par.mosiPin false)

/-- T2: the select is asserted; the sequencer goes on to SHIFT when there is a pulse to come. -/
def selectStep (k n : Nat) (s : State) : State :=
  let t := State.record none
    ({ s with seq := { s.seq with st := .select }, activeCs := some k } |>.pinDrive (s.par.csPin k) s.par.csActive)
  if 0 < n then { t with seq := { t.seq with st := .shift } } else t

/-- `SEQ.j <- j + 1`. -/
def State.pulseDone (s : State) : State := { s with seq := { s.seq with j := s.seq.j + 1 } }

/-- T3a to T3c of one pulse that carries bit `b`; the answer is the sample `s[j]`. -/
def pulse (m : Mode) (b : Bool) (s : State) : Bool × State :=
  match cpha m with
  | false =>
    let a := (s.pinDrive s.par.mosiPin b).record none
    let r := (a.pinDrive a.par.sckPin (!cpol m)).sampleMiso
    (r.1, ((r.2.pinDrive r.2.par.sckPin (cpol m)).pulseDone).record none)
  | true =>
    let a := ((s.pinDrive s.par.sckPin (!cpol m)).pinDrive s.par.mosiPin b).record none
    ((a.pinDrive a.par.sckPin (cpol m)).pulseDone).sampleMiso

/-- The pulses of a train, one per bit. -/
def shiftBits (m : Mode) : List Bool → State → List Bool × State
  | [], s => ([], s)
  | b :: rest, s =>
    let p := pulse m b s
    let q := shiftBits m rest p.2
    (p.1 :: q.1, q.2)

/-- T4: the select is deasserted. -/
def deselectStep (k : Nat) (s : State) : State :=
  State.record none
    ({ s with seq := { s.seq with st := .deselect }, activeCs := none } |>.pinDrive (s.par.csPin k) (!s.par.csActive))

/-- T5: MOSI back to 0; then the sequencer is idle, and of its position inside the transfer nothing outlasts the run: the rest of
`SEQ` is as `before` the call (R126, R55, log 15). -/
def parkStep (before : Seq) (s : State) : State :=
  let t := State.record none ({ s with seq := { s.seq with st := .park } } |>.pinDrive s.par.mosiPin false)
  { t with seq := { before with st := .idle } }

/-- `XFER(k, o)` (R123, R124): the samples, one per pulse, and the state after. -/
def xfer (k : Nat) (o : List Bool) (s : State) : List Bool × State :=
  let m := (s.portAt k).mode
  let q := shiftBits m o (selectStep k o.length (setupStep k o.length m s))
  (q.1, parkStep s.seq (deselectStep k q.2))

end Sys2Proof.Machine
end

