-- ==== Sys2Proof/Machine/Controller.lean ====
section
/-! DEFINITION. The controller operations CONFIGURE, GET_PORT, GET_GPIO, TERMINATE (40_lifecycle.md). -/

namespace Sys2Proof.Machine

/-- `OWNER[p]` that CONFIGURE with `n` chip-selects sets (R80). -/
def roleAt (c : Params) (n p : Nat) : Owner :=
  if p = c.sckPin then .sck
  else if p = c.mosiPin then .mosi
  else if p = c.misoPin then .miso
  else if c.csBase ≤ p ∧ p - c.csBase < n then .cs (p - c.csBase)
  else .free

/-- `OE[p]` that CONFIGURE sets (R80). -/
def roleDriven : Owner → Bool
  | .sck => true
  | .mosi => true
  | .cs _ => true
  | .miso => false
  | .free => false
  | .gpio => false

/-- `DRV[p]` that CONFIGURE sets (R80): selects deasserted, the rest 0. -/
def roleLevel (c : Params) : Owner → Bool
  | .cs _ => !c.csActive
  | .sck => false
  | .mosi => false
  | .miso => false
  | .free => false
  | .gpio => false

/-- `PORT[k].valid <- 0` for every `k`; the other fields are as they were (R80, R86, log 16). -/
def invalidatePorts (ports : List Port) : List Port := ports.map (fun q => { q with valid := false })

/-- The effect of a CONFIGURE that passes its checks (R80). -/
def State.openBlock (n : BitVec 8) (s : State) : State :=
  State.record none
    { s with
      isOpen := true
      csCount := n
      ports := invalidatePorts s.ports
      gpioClaimed := false
      dir := 0#16
      out := 0#16
      activeCs := none
      owner := (List.range s.par.w).map (roleAt s.par n.toNat)
      oe := pinsWhere (fun p => roleDriven (roleAt s.par n.toNat p)) s.par.w
      drv := pinsWhere (fun p => roleLevel s.par (roleAt s.par n.toNat p)) s.par.w }

/-- The effect of TERMINATE (R86). `SEQ` goes to its reset position as well, since the state after TERMINATE "equals the reset
state" and TERMINATE "sets every pin and register regardless" (R184): DEDUCED (log 15). -/
def State.closeBlock (s : State) : State :=
  State.record none
    { s with
      isOpen := false
      csCount := 0#8
      ports := invalidatePorts s.ports
      gpioClaimed := false
      dir := 0#16
      out := 0#16
      activeCs := none
      seq := { s.seq with st := .idle, n := 0, j := 0 }
      owner := List.replicate s.par.w .free
      oe := 0#16
      drv := 0#16
      faulted := false }

/-- GET_GPIO claims every pin that is `FREE` (R84). -/
def claimFree : Owner → Owner
  | .free => .gpio
  | .sck => .sck
  | .mosi => .mosi
  | .miso => .miso
  | .cs k => .cs k
  | .gpio => .gpio

/-- The claim of GET_GPIO (R84); no pin changes. -/
def State.claimGpio (s : State) : State :=
  { s with owner := s.owner.map claimFree, gpioClaimed := true, dir := 0#16, out := 0#16 }

/-- CONFIGURE (R80); `device_present` is asked only when the first two checks pass. -/
def execConfigure (csCount : BitVec 8) (s : State) : Host.Outcome State Fault Refusal :=
  .next
    (if s.isOpen = true then s.raise .configuration
     else if csCount.toNat < 1 ∨ s.par.csMax < csCount.toNat then s.raise .configuration
     else if s.devicePresent = false then s.deviceAsked.raise .configuration
     else (s.deviceAsked.openBlock csCount).answerOk 0#16 [])

/-- GET_PORT (R82). -/
def execGetPort (index : BitVec 8) (freq : BitVec 32) (mode : Mode) (order : BitOrder) (s : State) :
    Host.Outcome State Fault Refusal :=
  .next
    (if s.isOpen = false then s.raise .configuration
     else if s.csCount.toNat ≤ index.toNat then s.raise .configuration
     else if freq.toNat = 0 ∨ s.par.fMax < freq.toNat then s.raise .configuration
     else State.answerOk (index.setWidth 16) []
       { s with ports := s.ports.set index.toNat { valid := true, mode := mode, order := order, freq := freq } })

/-- GET_GPIO (R84); the value is `GPIO_CLAIM` of the state after. -/
def execGetGpio (s : State) : Host.Outcome State Fault Refusal :=
  .next
    (if s.isOpen = false then s.raise .configuration
     else if s.gpioClaimed = true then s.answerOk s.gpioClaim []
     else if s.anyPort = false then s.raise .configuration
     else s.claimGpio.answerOk s.claimGpio.gpioClaim [])

/-- TERMINATE (R86): it succeeds in every state. -/
def execTerminate (s : State) : Host.Outcome State Fault Refusal := .next (s.closeBlock.answerOk 0#16 [])

end Sys2Proof.Machine
end

