-- ==== Sys2Proof/Machine/SpiPort.lean ====
section
/-! DEFINITION. The SPI port operations SPI_WRITE, SPI_READ, SPI_EXCHANGE (43_spi_transfers.md): the bit-engine around one run
of `XFER`. -/

namespace Sys2Proof.Machine

/-- What the three operations share (R146): the checks with trailing-phase length `len`, then the link, then `body`. A broken link
leaves the levels of all SPI bus pins open (U2, R224 (e), log 11). -/
def transfer (index : BitVec 8) (droptail : BitVec 8) (len : Nat) (body : State → State) (s : State) : State :=
  match checkXfer index droptail len s with
  | some e => s.raise e
  | none => s.askLink (State.linkFailure s.spiClaim 0#16) body

/-- SPI_WRITE after its checks (R140): the samples are thrown away. -/
def writeBody (k : Nat) (data : List Byte) (d : Nat) (s : State) : State :=
  (xfer k (txbits (s.portAt k).order data d) s).2.answerOk 0#16 []

/-- SPI_READ after its checks (R142): MOSI is 0 at every pulse. -/
def readBody (k : Nat) (length : BitVec 16) (d : Nat) (s : State) : State :=
  let x := xfer k (zeros length.toNat) s
  x.2.answerOk length (rxbytes (s.portAt k).order x.1 d)

/-- SPI_EXCHANGE, half-duplex with a read phase (R144): the write phase goes out whole, the read phase is trimmed. -/
def halfDuplexBody (k : Nat) (dataOut : List Byte) (lengthIn : BitVec 16) (d : Nat) (s : State) : State :=
  let x := xfer k (bits (s.portAt k).order dataOut ++ zeros lengthIn.toNat) s
  x.2.answerOk lengthIn (rxbytes (s.portAt k).order (x.1.drop (8 * dataOut.length)) d)

/-- SPI_EXCHANGE, full duplex (R144): what is sampled while `data_out` goes out. -/
def duplexBody (k : Nat) (dataOut : List Byte) (d : Nat) (s : State) : State :=
  let x := xfer k (txbits (s.portAt k).order dataOut d) s
  x.2.answerOk (BitVec.ofNat 16 dataOut.length) (rxbytes (s.portAt k).order x.1 d)

/-- SPI_WRITE (R140). -/
def execSpiWrite (index : BitVec 8) (data : List Byte) (droptail : BitVec 8) (s : State) : Host.Outcome State Fault Refusal :=
  .next (transfer index droptail data.length (writeBody index.toNat data (dropCount droptail)) s)

/-- SPI_READ (R142). -/
def execSpiRead (index : BitVec 8) (length : BitVec 16) (droptail : BitVec 8) (s : State) : Host.Outcome State Fault Refusal :=
  .next (transfer index droptail length.toNat (readBody index.toNat length (dropCount droptail)) s)

/-- SPI_EXCHANGE (R144): its three branches. In full duplex `length_in` is not looked at. -/
def execSpiExchange (index : BitVec 8) (dataOut : List Byte) (lengthIn : BitVec 16) (duplex : Bool) (droptail : BitVec 8)
    (s : State) : Host.Outcome State Fault Refusal :=
  .next
    (transfer index droptail (trailingLength dataOut.length lengthIn duplex)
      (if duplex = true then duplexBody index.toNat dataOut (dropCount droptail)
       else if 0 < lengthIn.toNat then halfDuplexBody index.toNat dataOut lengthIn (dropCount droptail)
       else writeBody index.toNat dataOut (dropCount droptail)) s)

end Sys2Proof.Machine
end

