-- ==== Sys2Proof/Machine/GpioPort.lean ====
section
/-! DEFINITION. The GPIO operations GPIO_SET_DIRECTION, GPIO_WRITE, GPIO_READ (44_gpio.md). None runs the sequencer. -/

namespace Sys2Proof.Machine

/-- `DIR'` of GPIO_SET_DIRECTION (R160). -/
def newDir (dir pinMask outputMask : PinWord) : PinWord := (dir &&& ~~~pinMask) ||| (pinMask &&& outputMask)

/-- The effect of a GPIO_SET_DIRECTION that passes its checks (R160). -/
def State.setDirection (pinMask outputMask : PinWord) (s : State) : State :=
  let dir' := newDir s.dir pinMask outputMask
  State.record none
    ({ s with dir := dir', out := s.out &&& dir' } |>.enablePins pinMask dir' |>.drivePins (pinMask &&& dir') (s.out &&& dir'))

/-- The effect of a GPIO_WRITE that passes its checks (R163): every output pin, in one micro-step. -/
def State.writeBank (value : PinWord) (s : State) : State :=
  State.record none ({ s with out := mergePins s.dir value s.out } |>.drivePins s.dir value)

/-- GPIO_SET_DIRECTION (R160). -/
def execGpioSetDirection (pinMask outputMask : PinWord) (s : State) : Host.Outcome State Fault Refusal :=
  .next
    (match checkGpio s with
     | some e => s.raise e
     | none =>
       if pinMask &&& ~~~s.gpioClaim ≠ 0#16 then s.raise .invalidArgument
       else s.askLink (State.linkFailure pinMask pinMask) (fun t => (t.setDirection pinMask outputMask).answerOk 0#16 []))

/-- GPIO_WRITE (R163). -/
def execGpioWrite (value : PinWord) (s : State) : Host.Outcome State Fault Refusal :=
  .next
    (match checkGpio s with
     | some e => s.raise e
     | none =>
       if value &&& ~~~s.dir ≠ 0#16 then s.raise .gpioConflict
       else s.askLink (State.linkFailure s.dir 0#16) (fun t => (t.writeBank value).answerOk 0#16 []))

/-- GPIO_READ (R166): the snapshot of the claimed pins. -/
def execGpioRead (s : State) : Host.Outcome State Fault Refusal :=
  .next
    (match checkGpio s with
     | some e => s.raise e
     | none =>
       s.askLink (State.linkFailure 0#16 0#16)
         (fun t => (t.samplePins t.gpioClaim).2.answerOk (t.samplePins t.gpioClaim).1 []))

end Sys2Proof.Machine
end

