-- ==== Sys2Proof/Machine/Dispatch.lean ====
section
/-! DEFINITION. One arm per operation of the opcode map (R63). -/

namespace Sys2Proof.Machine

def exec (i : Instr) (s : State) : Host.Outcome State Fault Refusal :=
  match i with
  | .configure csCount => Sys2Proof.Machine.execConfigure csCount s
  | .getPort index freq mode order => Sys2Proof.Machine.execGetPort index freq mode order s
  | .getGpio => Sys2Proof.Machine.execGetGpio s
  | .terminate => Sys2Proof.Machine.execTerminate s
  | .spiWrite index data droptail => Sys2Proof.Machine.execSpiWrite index data droptail s
  | .spiRead index length droptail => Sys2Proof.Machine.execSpiRead index length droptail s
  | .spiExchange index dataOut lengthIn duplex droptail => Sys2Proof.Machine.execSpiExchange index dataOut lengthIn duplex droptail s
  | .gpioSetDirection pinMask outputMask => Sys2Proof.Machine.execGpioSetDirection pinMask outputMask s
  | .gpioWrite value => Sys2Proof.Machine.execGpioWrite value s
  | .gpioRead => Sys2Proof.Machine.execGpioRead s

end Sys2Proof.Machine
end

