-- ==== Sys2Proof/Machine/Command.lean ====
section
/-! DEFINITION. What the block does with the front of its command port, and what a reset does to it (R50, R69, R184, R210). -/

namespace Sys2Proof.Machine

/-- Run the command at the front of the port, if a whole one is there. An illegal word is answered with InvalidArgumentError (R69).
While no whole command is there the block waits and nothing happens (R35, R192, log 5). After a TransportError only TERMINATE has a
defined result, so any other command is a fault (R184, U2, log 13). -/
def runCommand (s : State) : Host.Outcome State Fault Refusal :=
  match decode s.cmdIn with
  | .command i rest =>
    if s.faulted = true ∧ i ≠ .terminate then .fault .afterTransportError else exec i { s with cmdIn := rest }
  | .incomplete => .next s
  | .unassignedOpcode _ rest => if s.faulted = true then .fault .afterTransportError else .next (s.refuseWord rest)
  | .reservedField _ rest => if s.faulted = true then .fault .afterTransportError else .next (s.refuseWord rest)

/-- What is left on the port behind its front command or illegal word. -/
def State.portRest (s : State) : List Byte :=
  match decode s.cmdIn with
  | .command _ rest => rest
  | .incomplete => s.cmdIn
  | .unassignedOpcode _ rest => rest
  | .reservedField _ rest => rest

/-- A command after a TransportError, as a reset inside it finds it: off the port, and of its pin events nothing is said. -/
def State.lostCommand (s : State) : State := { s with cmdIn := s.portRest, history := s.history ++ [.lost] }

/-- A step in which reset acts, after `k` micro-steps of the operation that begins there if one does (R210, R211, log 18). It acts
"at any time": after a TransportError too. -/
def resetStep (k : Nat) (s : State) : Host.Outcome State Fault Refusal :=
  match runCommand s with
  | .next t => .next (resetInside k s t)
  | .fault _ => .next (resetInside k s s.lostCommand)
  | .refused r => .refused r

end Sys2Proof.Machine
end

