-- ==== Sys2Proof/Machine/Step.lean ====
section
/-! DEFINITION. One step: the block takes one command from the command port and runs it to its end (R50). -/

namespace Sys2Proof.Machine

/-- One step of the block, or the reset that falls inside it (R211, log 18). -/
def step (s : State) : Host.Outcome State Fault Refusal :=
  match s.resetIn with
  | none => runCommand s
  | some k => resetStep k s

/-- `s` with the command of a table word, and a payload of zeros where it asks for one, at the front of the command port and no
reset pending: the host issues that command (log 4). -/
def State.withFetchWord (s : State) (nbits w : Nat) : State :=
  { s with cmdIn := tableBytes nbits w ++ s.cmdIn, resetIn := none }

end Sys2Proof.Machine
end

