-- ==== Sys2Proof/Machine/Environment.lean ====
section
/-! DEFINITION. What the environment sees of the block (R125): the values of `DRV` and `OE` after each micro-step, equal neighbours
merged. It sees neither `ACTIVE_CS` nor `SEQ`, which the history holds beside them. -/

namespace Sys2Proof.Machine

/-- The pair (`DRV`, `OE`). -/
structure Pins where
  drv : PinWord
  oe : PinWord
  deriving DecidableEq, Repr

/-- The pair as a micro-step leaves it. -/
def MicroStep.pins (m : MicroStep) : Pins := ⟨m.drv, m.oe⟩

/-- The pair as it stands. -/
def State.pins (s : State) : Pins := ⟨s.drv, s.oe⟩

/-- An entry of the sequence that the environment sees. -/
inductive Sight where
  | pins (p : Pins)
  /-- some values of which nothing is said, none perhaps, of an operation that the link broke (R130, R184): the first may equal the
  value before it and the last the value after it -/
  | unknown
  deriving DecidableEq, Repr

/-- What the environment sees of each of some events, the pair before them being `before` if it is known: a micro-step that leaves the
pair as it finds it is invisible. -/
def sights : Option Pins → List PinEvent → List (Option Sight)
  | _, [] => []
  | before, .micro m :: rest =>
    (if before = some m.pins then none else some (.pins m.pins)) :: sights (some m.pins) rest
  | _, .lost :: rest => some .unknown :: sights none rest

/-- The sequence that the environment sees (R125). -/
def environmentView (before : Option Pins) (events : List PinEvent) : List Sight := (sights before events).filterMap id

/-- What the environment has seen since the block first came out of reset, no pin driven (R35). -/
def State.environmentView (s : State) : List Sight := Machine.environmentView (some ⟨0#16, 0#16⟩) s.history

end Sys2Proof.Machine
end

