-- ==== Sys2Proof/Safety.lean ====
section
/-! DEFINITION. The terms in which claims about the block are stated: its standing invariants (R14, R16, R20, R24, R88), what a
transfer puts on the wire (R124) and which of it can be seen (R125), what the environment answers (R46), and which error a command meets first (R187, R188).

A run is safe while `faulted` is false: a TransportError leaves bus levels of which nothing is claimed, until TERMINATE or a reset
(R184, log 12). -/

namespace Sys2Proof.Machine

/-! ### Invariants -/

/-- What every step keeps, TransportError included: the registers, and which of the SPI bus pins are driven. -/
structure Inv (s : State) : Prop where
  /-- the parameters meet R6 -/
  parValid : s.par.valid = true
  ownerLength : s.owner.length = s.par.w
  portsLength : s.ports.length = s.par.csMax
  /-- R12 -/
  countClosed : s.isOpen = false → s.csCount = 0#8
  countOpen : s.isOpen = true → 1 ≤ s.csCount.toNat ∧ s.csCount.toNat ≤ s.par.csMax
  /-- R14 (d) -/
  ledgerClosed : s.isOpen = false → ∀ p, p < s.par.w → s.ownerOf p = .free
  /-- R14 (b) -/
  ledgerSck : s.isOpen = true → s.ownerOf s.par.sckPin = .sck
  ledgerMosi : s.isOpen = true → s.ownerOf s.par.mosiPin = .mosi
  ledgerMiso : s.isOpen = true → s.ownerOf s.par.misoPin = .miso
  ledgerCs : s.isOpen = true → ∀ k, k < s.csCount.toNat → s.ownerOf (s.par.csPin k) = .cs k
  /-- R14 (b), (c): every other pin is FREE before GET_GPIO and GPIO after it -/
  ledgerRest : s.isOpen = true → ∀ p, p < s.par.w → p ≠ s.par.sckPin → p ≠ s.par.mosiPin → p ≠ s.par.misoPin →
    (∀ k, k < s.csCount.toNat → p ≠ s.par.csPin k) → s.ownerOf p = if s.gpioClaimed then .gpio else .free
  /-- R15, R88 -/
  claimedPort : s.gpioClaimed = true → s.isOpen = true ∧ ∃ k, k < s.csCount.toNat ∧ (s.portAt k).valid = true
  /-- R16, R82: a created port has an index below `CS_COUNT` and a legal frequency -/
  portRange : ∀ k, (s.portAt k).valid = true →
    k < s.csCount.toNat ∧ 1 ≤ (s.portAt k).freq.toNat ∧ (s.portAt k).freq.toNat ≤ s.par.fMax
  /-- R20 (a) -/
  dirClaimed : s.dir &&& ~~~s.gpioClaim = 0#16
  /-- R20 (b) -/
  outDir : s.out &&& ~~~s.dir = 0#16
  /-- a pin that does not exist has no latch (R21) -/
  noPin : ∀ p, s.par.w ≤ p → s.drv.getLsbD p = false ∧ s.oe.getLsbD p = false
  /-- R24, R51: MISO is never driven -/
  misoUndriven : s.oe.getLsbD s.par.misoPin = false
  /-- R24: clock, data out and every select are driven while the block is open -/
  busDriven : s.isOpen = true → s.oe.getLsbD s.par.sckPin = true ∧ s.oe.getLsbD s.par.mosiPin = true
    ∧ ∀ k, k < s.csCount.toNat → s.oe.getLsbD (s.par.csPin k) = true

/-- What holds between operations while no TransportError has happened since reset or the last TERMINATE (R20 (c), R23, R24). -/
structure PinInv (s : State) : Prop where
  seqIdle : s.seq.st = .idle
  noSelect : s.activeCs = none
  /-- R35: a closed block drives nothing -/
  closed : s.isOpen = false → s.oe = 0#16 ∧ s.drv = 0#16
  /-- R24 -/
  mosiLow : s.isOpen = true → s.drv.getLsbD s.par.mosiPin = false
  selectsHigh : s.isOpen = true → ∀ k, k < s.csCount.toNat → s.drv.getLsbD (s.par.csPin k) = !s.par.csActive
  /-- R20 (c) -/
  bankEnable : ∀ p, s.gpioClaim.getLsbD p = true → s.oe.getLsbD p = s.dir.getLsbD p
  bankLevel : ∀ p, s.dir.getLsbD p = true → s.drv.getLsbD p = s.out.getLsbD p
  /-- R51: a pin nobody has claimed is undriven -/
  freeUndriven : ∀ p, p < s.par.w → s.ownerOf p = .free → s.oe.getLsbD p = false

/-- The invariant of the block: `Inv` always, `PinInv` as long as the run is safe. -/
def Good (s : State) : Prop := Inv s ∧ (s.faulted = false → PinInv s)

/-- The table of R35 at the registers to which it gives a value. -/
structure AtReset (s : State) : Prop where
  isOpen : s.isOpen = false
  noPort : ∀ k, (s.portAt k).valid = false
  gpioClaimed : s.gpioClaimed = false
  csCount : s.csCount = 0#8
  owner : ∀ p, s.ownerOf p = .free
  dir : s.dir = 0#16
  out : s.out = 0#16
  oe : s.oe = 0#16
  drv : s.drv = 0#16
  activeCs : s.activeCs = none
  seq : s.seq.st = .idle ∧ s.seq.j = 0 ∧ s.seq.n = 0

/-! ### Frames -/

/-- The registers of the block are the same (R184: "OPEN, CS_COUNT, OWNER, GPIO_CLAIMED, PORT, DIR and OUT"), and the
parameters. -/
structure SameRegisters (s t : State) : Prop where
  par : t.par = s.par
  isOpen : t.isOpen = s.isOpen
  csCount : t.csCount = s.csCount
  owner : t.owner = s.owner
  gpioClaimed : t.gpioClaimed = s.gpioClaimed
  ports : t.ports = s.ports
  dir : t.dir = s.dir
  out : t.out = s.out

/-- What the outside holds at the ports is the same, but for the coming answers of the environment and of the link. -/
structure SameInputs (s t : State) : Prop where
  cmdIn : t.cmdIn = s.cmdIn
  device : t.device = s.device
  resetIn : t.resetIn = s.resetIn

/-! ### The wire -/

/-- The pin events of an operation that took the block from `s` to `t`. -/
def newEvents (s t : State) : List PinEvent := t.history.drop s.history.length

/-- A micro-step as seen on the bus of port `k`: clock, data out, select, the asserted select's index, the sequencer, and
whether MISO is sampled. -/
structure BusView where
  sck : Bool
  mosi : Bool
  select : Bool
  activeCs : Option Nat
  seq : Seq
  sampled : Bool
  deriving DecidableEq, Repr

/-- An event on the bus of port `k`; a broken operation shows nothing. -/
def PinEvent.view (c : Params) (k : Nat) : PinEvent → Option BusView
  | .micro m => some ⟨m.drv.getLsbD c.sckPin, m.drv.getLsbD c.mosiPin, m.drv.getLsbD (c.csPin k), m.activeCs, m.seq,
      m.sample.isSome⟩
  | .lost => none

/-- The micro-steps of pulse `j` of `n`, carrying bit `b` (R124, T3a to T3c). -/
def pulseTrace (c : Params) (k n : Nat) (m : Mode) (j : Nat) (b : Bool) : List BusView :=
  if cpha m = false then
    [⟨cpol m, b, c.csActive, some k, ⟨.shift, k, n, j⟩, false⟩,
     ⟨!cpol m, b, c.csActive, some k, ⟨.shift, k, n, j⟩, true⟩,
     ⟨cpol m, b, c.csActive, some k, ⟨.shift, k, n, j + 1⟩, false⟩]
  else
    [⟨!cpol m, b, c.csActive, some k, ⟨.shift, k, n, j⟩, false⟩,
     ⟨cpol m, b, c.csActive, some k, ⟨.shift, k, n, j + 1⟩, true⟩]

/-- The micro-steps of the pulses from pulse `j` on. -/
def pulsesTrace (c : Params) (k n : Nat) (m : Mode) : Nat → List Bool → List BusView
  | _, [] => []
  | j, b :: rest => pulseTrace c k n m j b ++ pulsesTrace c k n m (j + 1) rest

/-- The micro-steps of `XFER(k, o)` (R124). T1 leaves the select line and `ACTIVE_CS` as it finds them: `select0` and `active0`,
which at rest are the deasserted level and none (R24). -/
def xferTrace (c : Params) (k : Nat) (m : Mode) (select0 : Bool) (active0 : Option Nat) (o : List Bool) : List BusView :=
  [⟨cpol m, false, select0, active0, ⟨.setup, k, o.length, 0⟩, false⟩,
   ⟨cpol m, false, c.csActive, some k, ⟨.select, k, o.length, 0⟩, false⟩]
  ++ pulsesTrace c k o.length m 0 o
  ++ [⟨cpol m, o.getLastD false, !c.csActive, none, ⟨.deselect, k, o.length, o.length⟩, false⟩,
      ⟨cpol m, false, !c.csActive, none, ⟨.park, k, o.length, o.length⟩, false⟩]

/-- Which micro-steps of the pulses can be seen, data out being at `mosi` before them (R125): with phase 0 the first of a pulse only if
its bit is not the level data out has; every other changes the clock. -/
def pulsesShow (m : Mode) : Bool → List Bool → List Bool
  | _, [] => []
  | mosi, b :: rest => (if cpha m = false then [b != mosi, true, true] else [true, true]) ++ pulsesShow m b rest

/-- Which micro-steps of `XFER(k, o)` can be seen (R125), the clock, data out and the select being at these levels before it: T1 unless the
clock idles at `cpol` and data out is 0, T2 if the select was not asserted, T4 always, T5 only if the last bit was 1. -/
def xferShows (c : Params) (m : Mode) (sck0 mosi0 select0 : Bool) (o : List Bool) : List Bool :=
  [sck0 != cpol m || mosi0, select0 != c.csActive] ++ pulsesShow m false o ++ [true, o.getLastD false]

/-- The level of data out at each sample of some events. -/
def mosiAtSamples (c : Params) (events : List PinEvent) : List Bool :=
  events.filterMap fun e =>
    match e with
    | .micro m => if m.sample.isSome then some (m.drv.getLsbD c.mosiPin) else none
    | .lost => none

/-- The samples taken in some events. -/
def samplesOf (events : List PinEvent) : List Bool :=
  events.filterMap fun e =>
    match e with
    | .micro m => m.sample
    | .lost => none

/-- The environment's next `n` answers: those lined up, then free values (R46, log 8). -/
def envAnswers : Nat → List PinWord → Nat → List PinWord
  | 0, _, _ => []
  | n + 1, w :: ws, f => w :: envAnswers n ws f
  | n + 1, [], f => Config.freeEnv f :: envAnswers n [] (f + 1)

/-- The environment's next `n` answers for MISO. -/
def misoAnswers (n : Nat) (s : State) : List Bool := (envAnswers n s.envIn s.fresh).map fun w => w.getLsbD s.par.misoPin

/-! ### Transfers -/

/-- The operation is one of the three transfers, with this port, droptail and trailing-phase length (R146). -/
def IsTransfer (i : Instr) (index droptail : BitVec 8) (len : Nat) : Prop :=
  (∃ data, i = .spiWrite index data droptail ∧ len = data.length) ∨
  (∃ length, i = .spiRead index length droptail ∧ len = length.toNat) ∨
  (∃ data lengthIn, i = .spiExchange index data lengthIn false droptail ∧ 0 < lengthIn.toNat ∧ len = lengthIn.toNat) ∨
  (∃ data lengthIn, i = .spiExchange index data lengthIn false droptail ∧ lengthIn.toNat = 0 ∧ len = data.length) ∨
  (∃ data lengthIn, i = .spiExchange index data lengthIn true droptail ∧ len = data.length)

/-- The fields of a transfer are legal (R112, R146 checks 1 and 2). -/
def LegalFields (droptail : BitVec 8) (len : Nat) : Prop := 0 ≤ droptail.toInt ∧ droptail.toInt ≤ 7 ∧ (len = 0 → droptail.toInt = 0)

/-- A transfer on this port can run (R146 checks 3 to 6). -/
def PortReady (index : BitVec 8) (s : State) : Prop :=
  s.isOpen = true ∧ index.toNat < s.csCount.toNat ∧ (s.portAt index.toNat).valid = true ∧ s.linkOk = true

/-- What `check_xfer` answers when a check fails, in the order of R146; check 6, the link, answers TransportError and keeps the
registers (R184). -/
def TransferErrors (i : Instr) (index droptail : BitVec 8) (len : Nat) (s : State) : Prop :=
  (droptail.toInt < 0 ∨ 7 < droptail.toInt → exec i s = .next { s with rsp := some ⟨0x02000000#32, []⟩ }) ∧
  (0 ≤ droptail.toInt → droptail.toInt ≤ 7 → len = 0 → 0 < droptail.toInt →
    exec i s = .next { s with rsp := some ⟨0x02000000#32, []⟩ }) ∧
  (LegalFields droptail len → s.isOpen = false → exec i s = .next { s with rsp := some ⟨0x01000000#32, []⟩ }) ∧
  (LegalFields droptail len → s.isOpen = true → s.csCount.toNat ≤ index.toNat →
    exec i s = .next { s with rsp := some ⟨0x01000000#32, []⟩ }) ∧
  (LegalFields droptail len → s.isOpen = true → index.toNat < s.csCount.toNat → (s.portAt index.toNat).valid = false →
    exec i s = .next { s with rsp := some ⟨0x01000000#32, []⟩ }) ∧
  (LegalFields droptail len → s.isOpen = true → index.toNat < s.csCount.toNat → (s.portAt index.toNat).valid = true →
    s.linkOk = false → ∃ t, exec i s = .next t ∧ t.rsp = some ⟨0x04000000#32, []⟩ ∧ SameRegisters s t)

/-- What a transfer of `n` pulses on port `k` leaves when it completes (R123, R124, R126): the registers, every `OE` and every
latch outside clock, data out and the one select are as before; the bus is at rest with the clock at the port's idle level, and
`SEQ` is idle and otherwise as before (R126, log 15); the environment has been asked once per pulse. -/
structure TransferDone (k n : Nat) (s t : State) : Prop where
  registers : SameRegisters s t
  inputs : SameInputs s t
  faulted : t.faulted = s.faulted
  oe : t.oe = s.oe
  otherPins : ∀ p, p ≠ s.par.sckPin → p ≠ s.par.mosiPin → p ≠ s.par.csPin k → t.drv.getLsbD p = s.drv.getLsbD p
  sck : t.drv.getLsbD s.par.sckPin = cpol (s.portAt k).mode
  mosi : t.drv.getLsbD s.par.mosiPin = false
  select : t.drv.getLsbD (s.par.csPin k) = !s.par.csActive
  activeCs : t.activeCs = none
  seq : t.seq = { s.seq with st := .idle }
  asked : t.envIn = s.envIn.drop n ∧ t.fresh = s.fresh + (n - s.envIn.length)

/-- The operation's micro-steps are those of `XFER(k, o)` (R124), and it ends as R126 says. -/
def RunsXfer (k : Nat) (o : List Bool) (s t : State) : Prop :=
  (newEvents s t).map (PinEvent.view s.par k) = (xferTrace s.par k (s.portAt k).mode (s.drv.getLsbD (s.par.csPin k)) s.activeCs o).map some
    ∧ t.history.take s.history.length = s.history ∧ TransferDone k o.length s t

/-! ### Which error -/

/-- The status of a transfer (R187, R188). -/
def transferStatus (index droptail : BitVec 8) (len : Nat) (s : State) : BitVec 8 :=
  if droptail.toInt < 0 ∨ 7 < droptail.toInt ∨ (len = 0 ∧ 0 < droptail.toInt) then 2#8
  else if s.isOpen = false ∨ s.csCount.toNat ≤ index.toNat ∨ (s.portAt index.toNat).valid = false then 1#8
  else if s.linkOk = false then 4#8 else 0#8

/-- The table of R188 read in the order of R187: the status each operation answers. -/
def expectedStatus (s : State) : Instr → BitVec 8
  | .configure n =>
    if s.isOpen = true ∨ n.toNat < 1 ∨ s.par.csMax < n.toNat ∨ s.devicePresent = false then 1#8 else 0#8
  | .getPort index freq _ _ =>
    if s.isOpen = false ∨ s.csCount.toNat ≤ index.toNat ∨ freq.toNat = 0 ∨ s.par.fMax < freq.toNat then 1#8 else 0#8
  | .getGpio =>
    if s.isOpen = false ∨ (s.gpioClaimed = false ∧ ∀ k, k < s.csCount.toNat → (s.portAt k).valid = false) then 1#8 else 0#8
  | .terminate => 0#8
  | .spiWrite index data droptail => transferStatus index droptail data.length s
  | .spiRead index length droptail => transferStatus index droptail length.toNat s
  | .spiExchange index dataOut lengthIn duplex droptail =>
    transferStatus index droptail (if duplex = false ∧ 0 < lengthIn.toNat then lengthIn.toNat else dataOut.length) s
  | .gpioSetDirection pinMask _ =>
    if s.isOpen = false ∨ s.gpioClaimed = false then 1#8
    else if pinMask &&& ~~~s.gpioClaim ≠ 0#16 then 2#8 else if s.linkOk = false then 4#8 else 0#8
  | .gpioWrite value =>
    if s.isOpen = false ∨ s.gpioClaimed = false then 1#8
    else if value &&& ~~~s.dir ≠ 0#16 then 3#8 else if s.linkOk = false then 4#8 else 0#8
  | .gpioRead =>
    if s.isOpen = false ∨ s.gpioClaimed = false then 1#8 else if s.linkOk = false then 4#8 else 0#8

/-- The GPIO bank can be used (R168), and the link holds. -/
def BankReady (s : State) : Prop := s.isOpen = true ∧ s.gpioClaimed = true ∧ s.linkOk = true

/-- The state with every stored frequency forgotten (R83). -/
def eraseFreq (s : State) : State := { s with ports := s.ports.map fun q => { q with freq := 0#32 } }

end Sys2Proof.Machine
end

