-- ==== Sys2Proof/Certificates/Slice0/Obligations.lean ====
section
/-! DEFINITION. The statements about the block. `OBLIGATIONS.json` says for each which rules of the spec it rests on.

A response is written as its word and its payload: `⟨0x01000000#32, []⟩` is ConfigurationError (R71, R180).

Some things that the spec keeps outside the block stand in `State` in a form that is the model's choice, and statements about a
step speak through them: the bytes on the command port and the answer on the response port (log 4, log 7), the environment's
answers and those of the device and the link (log 8, log 9), and the history of pin events that R125 allows a model to keep (log 14). -/

open Sys2Proof Sys2Proof.Machine

/-! ### Encoding -/

/-- Words of 95_test_vectors.md part 9 and of the operation rules decode to their operations (R61, R62, R63). -/
def Obligations.CommandWordsDecode : Prop :=
  decodeTableWord 64 0x0100000000000002 = some (.configure 2#8) ∧
  decodeTableWord 64 0x02010700005B8D80 = some (.getPort 1#8 6000000#32 .mode3 .lsbFirst) ∧
  decodeTableWord 64 0x0300000000000000 = some .getGpio ∧
  decodeTableWord 64 0x0400000000000000 = some .terminate ∧
  decode [0x00#8, 0x00#8, 0x01#8, 0x00#8, 0x00#8, 0x03#8, 0x00#8, 0x10#8, 0x0F#8] = .command (.spiWrite 0#8 [0x0F#8] 3#8) [] ∧
  decodeTableWord 64 0x1100050000000002 = some (.spiRead 0#8 2#16 5#8) ∧
  decodeTableWord 64 0x12FF800100000000 = some (.spiExchange 255#8 [] 0#16 true (BitVec.ofInt 8 (-128))) ∧
  decodeTableWord 64 0x2000000000E00060 = some (.gpioSetDirection 0x00E0#16 0x0060#16) ∧
  decodeTableWord 64 0x210000000000FFFF = some (.gpioWrite 0xFFFF#16) ∧
  decodeTableWord 64 0x2200000000000000 = some .gpioRead

/-- R63: the ten operations with their "match" and "mask"; the decoder finds an operation in a word exactly when
`cmd & mask = match`, and an instruction belongs to the row it is decoded from. -/
def Obligations.OpcodeMapIsTheSpecs : Prop :=
  Op.all.map (fun o => (o, o.pattern, o.mask)) =
    [(.configure, 0x0100000000000000#64, 0xFFFFFFFFFFFFFF00#64), (.getPort, 0x0200000000000000#64, 0xFF00F8FF00000000#64),
     (.getGpio, 0x0300000000000000#64, 0xFFFFFFFFFFFFFFFF#64), (.terminate, 0x0400000000000000#64, 0xFFFFFFFFFFFFFFFF#64),
     (.spiWrite, 0x1000000000000000#64, 0xFF0000FF0000FFFF#64), (.spiRead, 0x1100000000000000#64, 0xFF0000FFFFFF0000#64),
     (.spiExchange, 0x1200000000000000#64, 0xFF0000FE00000000#64),
     (.gpioSetDirection, 0x2000000000000000#64, 0xFFFFFFFF00000000#64),
     (.gpioWrite, 0x2100000000000000#64, 0xFFFFFFFFFFFF0000#64), (.gpioRead, 0x2200000000000000#64, 0xFFFFFFFFFFFFFFFF#64)] ∧
  (∀ o : Op, o ∈ Op.all) ∧ (∀ (w : Word) (o : Op), selectedOp w = some o ↔ w &&& o.mask = o.pattern) ∧
  ∀ (o : Op) (w : Word) (payload : List Byte), (instrOf o w payload).op = o

/-- No word selects two operations (R63, R70). -/
def Obligations.AWordSelectsAtMostOneOperation : Prop :=
  ∀ (w : Word) (a b : Op), w &&& a.mask = a.pattern → w &&& b.mask = b.pattern → a = b

/-- Decoding what was encoded gives every well-formed instruction back, whatever stands behind it on the port. -/
def Obligations.DecodeInvertsEncode : Prop :=
  ∀ (i : Instr) (rest : List Byte), i.wellFormed = true → decode (encode i ++ rest) = .command i rest

/-- Every command has one encoding: what decodes to an instruction is that instruction's encoding. -/
def Obligations.EncodeInvertsDecode : Prop :=
  ∀ (bytes rest : List Byte) (i : Instr), decode bytes = .command i rest → i.wellFormed = true ∧ bytes = encode i ++ rest

/-- R69: while no TransportError has happened, a word that matches no row is answered with InvalidArgumentError, changes no state,
moves no pin and takes no payload; after one, such a word is a fault (R184, log 13). A word that matches a row and has its payload
behind it is not illegal, whatever its operands: the step runs it while no TransportError has happened, and TERMINATE always (that any
other is a fault after one is `StepRunsTheDecodedCommand`). That the word and nothing behind it leaves the port is the model's (log 4,
log 6). -/
def Obligations.IllegalWordsAreAnswered : Prop :=
  ∀ (s : State) (w : Word) (tail : List Byte), s.resetIn = none → s.cmdIn = wordBytes w ++ tail →
    ((∀ o : Op, w &&& o.mask ≠ o.pattern) →
      (s.faulted = false → step s = .next { s with cmdIn := tail, rsp := some ⟨0x02000000#32, []⟩ }) ∧
      (s.faulted = true → step s = .fault .afterTransportError)) ∧
    (∀ o : Op, w &&& o.mask = o.pattern → payloadLength o w ≤ tail.length →
      ∃ i rest, i.op = o ∧ decode s.cmdIn = .command i rest ∧
        (s.faulted = false ∨ i = .terminate → step s = exec i { s with cmdIn := rest }))

/-! ### The step -/

/-- When a whole command stands at the front of the port and no reset is pending, a step is that command's meaning, the command
taken from the port (R50; the port is log 4). After a TransportError that holds of TERMINATE alone, "the only operation with a
defined result after it", and any other command is a fault (R184, U2, log 13). -/
def Obligations.StepRunsTheDecodedCommand : Prop :=
  ∀ (s : State) (i : Instr) (rest : List Byte), s.resetIn = none → decode s.cmdIn = .command i rest →
    (s.faulted = false ∨ i = .terminate → step s = exec i { s with cmdIn := rest }) ∧
    (s.faulted = true → i ≠ .terminate → step s = .fault .afterTransportError)

/-- Without a whole command the block waits: nothing changes (log 5). -/
def Obligations.StepWaitsForAWholeCommand : Prop :=
  ∀ s : State, s.resetIn = none → decode s.cmdIn = .incomplete → step s = .next s

/-- R210, R211: a reset leaves the registers at the table of R35 and the pins undriven and gives no response, whatever the block was
doing: waiting, at an illegal word, inside an operation, or after a TransportError. Of an operation's micro-steps the first `k` have
run; while the block waits, and at an illegal word while no TransportError has happened, there is none. The reset input, what stays on
the command port, that the response port is empty afterwards, and the event of the reset itself are the model's (log 18, log 7, log 14); `SEQ.port` in that event is 0 by the model's choice, since
R35 leaves it unspecified (log 17). -/
def Obligations.ResetInsideAnOperation : Prop :=
  ∀ (s : State) (k : Nat), s.resetIn = some k →
    ∃ u, step s = .next u ∧ u.rsp = none ∧ AtReset u ∧ u.par = s.par ∧ u.resetIn = none ∧ u.faulted = false ∧
      (decode s.cmdIn = .incomplete →
        u.cmdIn = s.cmdIn ∧ newEvents s u = [.micro ⟨0#16, 0#16, none, ⟨.idle, 0, 0, 0⟩, none⟩]) ∧
      (∀ (w : Word) (tail : List Byte), s.cmdIn = wordBytes w ++ tail → (∀ o : Op, w &&& o.mask ≠ o.pattern) →
        u.cmdIn = tail ∧
        (s.faulted = false → newEvents s u = [.micro ⟨0#16, 0#16, none, ⟨.idle, 0, 0, 0⟩, none⟩])) ∧
      (∀ (i : Instr) (rest : List Byte), decode s.cmdIn = .command i rest →
        u.cmdIn = rest ∧
        (s.faulted = false ∨ i = .terminate → ∃ t, exec i { s with cmdIn := rest } = .next t ∧
          newEvents s u = (newEvents s t).take k ++ [.micro ⟨0#16, 0#16, none, ⟨.idle, 0, 0, 0⟩, none⟩]))

/-! ### Reset -/

/-- R35: reset puts every item at the value of the table, for every parameter record; TERMINATE leaves the same values in every
state (that it puts `SEQ` there too is log 15). -/
def Obligations.ResetAndTerminateLeaveTheTable : Prop :=
  (∀ c : Params, AtReset (State.resetWith c)) ∧ AtReset State.reset ∧
    ∀ s : State, ∃ t, exec .terminate s = .next t ∧ AtReset t

/-! ### Controller operations -/

/-- R80. Its writes take effect together (R8): one pin event, which stands in the model's history (log 14). `device_present` is
asked only when the first two checks pass (log 9), and the mode, order and frequency of the ports are kept (log 16). -/
def Obligations.ConfigureOpensTheBlock : Prop :=
  ∀ (s : State) (n : BitVec 8), s.par.valid = true →
    ((s.isOpen = true ∨ n.toNat < 1 ∨ s.par.csMax < n.toNat) →
      exec (.configure n) s = .next { s with rsp := some ⟨0x01000000#32, []⟩ }) ∧
    (s.isOpen = false → 1 ≤ n.toNat → n.toNat ≤ s.par.csMax → s.devicePresent = false →
      exec (.configure n) s = .next { s with device := s.device.asked, rsp := some ⟨0x01000000#32, []⟩ }) ∧
    (s.isOpen = false → 1 ≤ n.toNat → n.toNat ≤ s.par.csMax → s.devicePresent = true →
      ∃ t, exec (.configure n) s = .next t ∧ t.rsp = some ⟨0x00000000#32, []⟩ ∧
        t.isOpen = true ∧ t.csCount = n ∧ t.gpioClaimed = false ∧ t.dir = 0#16 ∧ t.out = 0#16 ∧ t.activeCs = none ∧
        t.ports = s.ports.map (fun q => { q with valid := false }) ∧
        (t.ownerOf s.par.sckPin = .sck ∧ t.oe.getLsbD s.par.sckPin = true ∧ t.drv.getLsbD s.par.sckPin = false) ∧
        (t.ownerOf s.par.mosiPin = .mosi ∧ t.oe.getLsbD s.par.mosiPin = true ∧ t.drv.getLsbD s.par.mosiPin = false) ∧
        (t.ownerOf s.par.misoPin = .miso ∧ t.oe.getLsbD s.par.misoPin = false ∧ t.drv.getLsbD s.par.misoPin = false) ∧
        (∀ k, k < n.toNat → t.ownerOf (s.par.csPin k) = .cs k ∧ t.oe.getLsbD (s.par.csPin k) = true ∧
          t.drv.getLsbD (s.par.csPin k) = !s.par.csActive) ∧
        (∀ p, p ≠ s.par.sckPin → p ≠ s.par.mosiPin → p ≠ s.par.misoPin → (∀ k, k < n.toNat → p ≠ s.par.csPin k) →
          t.ownerOf p = .free ∧ t.oe.getLsbD p = false ∧ t.drv.getLsbD p = false) ∧
        t = { s with isOpen := true, csCount := n, gpioClaimed := false, dir := 0#16, out := 0#16, activeCs := none,
                     ports := t.ports, owner := t.owner, oe := t.oe, drv := t.drv, rsp := t.rsp,
                     device := s.device.asked,
                     history := s.history ++ [.micro ⟨t.drv, t.oe, none, s.seq, none⟩] })

/-- R82. -/
def Obligations.GetPortCreatesTheDescriptor : Prop :=
  ∀ (s : State) (index : BitVec 8) (freq : BitVec 32) (mode : Mode) (order : BitOrder), Inv s →
    ((s.isOpen = false ∨ s.csCount.toNat ≤ index.toNat ∨ freq.toNat = 0 ∨ s.par.fMax < freq.toNat) →
      exec (.getPort index freq mode order) s = .next { s with rsp := some ⟨0x01000000#32, []⟩ }) ∧
    (s.isOpen = true → index.toNat < s.csCount.toNat → 1 ≤ freq.toNat → freq.toNat ≤ s.par.fMax →
      ∃ t, exec (.getPort index freq mode order) s = .next t ∧ t.rsp = some ⟨index.setWidth 32, []⟩ ∧
        t.portAt index.toNat = ⟨true, mode, order, freq⟩ ∧ (∀ k, k ≠ index.toNat → t.portAt k = s.portAt k) ∧
        t = { s with ports := t.ports, rsp := t.rsp })

/-- R84. -/
def Obligations.GetGpioClaimsTheFreePins : Prop :=
  ∀ s : State, Inv s →
    (s.isOpen = false → exec .getGpio s = .next { s with rsp := some ⟨0x01000000#32, []⟩ }) ∧
    (s.isOpen = true → s.gpioClaimed = true → exec .getGpio s = .next { s with rsp := some ⟨s.gpioClaim.setWidth 32, []⟩ }) ∧
    (s.isOpen = true → s.gpioClaimed = false → (∀ k, k < s.csCount.toNat → (s.portAt k).valid = false) →
      exec .getGpio s = .next { s with rsp := some ⟨0x01000000#32, []⟩ }) ∧
    (s.isOpen = true → s.gpioClaimed = false → (∃ k, k < s.csCount.toNat ∧ (s.portAt k).valid = true) →
      ∃ t, exec .getGpio s = .next t ∧ t.rsp = some ⟨t.gpioClaim.setWidth 32, []⟩ ∧
        (∀ p, p < s.par.w → t.ownerOf p = if s.ownerOf p = .free then .gpio else s.ownerOf p) ∧
        t = { s with owner := t.owner, gpioClaimed := true, dir := 0#16, out := 0#16, rsp := t.rsp })

/-- R86, R35. That `SEQ` goes to its reset position too is DEDUCED (log 15), that the mode, order and frequency of a port are kept is
log 16, and the one pin event is log 14. -/
def Obligations.TerminateReleasesEverything : Prop :=
  ∀ s : State, ∃ t, exec .terminate s = .next t ∧ t.rsp = some ⟨0x00000000#32, []⟩ ∧ AtReset t ∧
    t.ports = s.ports.map (fun q => { q with valid := false }) ∧ t.par = s.par ∧ t.seq.port = s.seq.port ∧
    SameInputs s t ∧ t.link = s.link ∧ t.envIn = s.envIn ∧ t.fresh = s.fresh ∧
    t.history = s.history ++ [.micro ⟨0#16, 0#16, none, t.seq, none⟩]

/-- R87: on a closed block every operation but CONFIGURE and TERMINATE answers ConfigurationError and does nothing, unless a
transfer's own fields are illegal, which answers InvalidArgumentError. -/
def Obligations.ClosedBlockRejectsOperations : Prop :=
  ∀ (s : State) (i : Instr), s.isOpen = false → (∀ n, i ≠ .configure n) → i ≠ .terminate →
    ((∀ index d len, IsTransfer i index d len → LegalFields d len) →
      exec i s = .next { s with rsp := some ⟨0x01000000#32, []⟩ }) ∧
    (∀ index d len, IsTransfer i index d len → ¬ LegalFields d len →
      exec i s = .next { s with rsp := some ⟨0x02000000#32, []⟩ })

/-- R85: after a GET_GPIO that answers OK every pin of the bank has exactly one of the two roles. -/
def Obligations.PartitionIsTotalAfterGetGpio : Prop :=
  ∀ s : State, Inv s → s.isOpen = true → (∃ k, k < s.csCount.toNat ∧ (s.portAt k).valid = true) →
    ∃ t, exec .getGpio s = .next t ∧ t.spiClaim &&& t.gpioClaim = 0#16 ∧
      ∀ p, (t.spiClaim ||| t.gpioClaim).getLsbD p = decide (p < s.par.w)

/-- R88: no operation but TERMINATE takes a port or the GPIO bank away. -/
def Obligations.PortsAndBankLastUntilTerminate : Prop :=
  ∀ (s t : State) (i : Instr), Inv s → exec i s = .next t → i ≠ .terminate →
    (∀ k, (s.portAt k).valid = true → (t.portAt k).valid = true) ∧ (s.gpioClaimed = true → t.gpioClaimed = true)

/-- Who writes what (section 12 of 10_state.md; R11, R12, R13, R15, R17, R18, R19): an operation that changes a register is one
of those that the register's rule names. -/
def Obligations.EachRegisterHasItsWriters : Prop :=
  ∀ (s t : State) (i : Instr), exec i s = .next t →
    (t.isOpen ≠ s.isOpen ∨ t.csCount ≠ s.csCount → (∃ n, i = .configure n) ∨ i = .terminate) ∧
    (t.owner ≠ s.owner ∨ t.gpioClaimed ≠ s.gpioClaimed → (∃ n, i = .configure n) ∨ i = .getGpio ∨ i = .terminate) ∧
    (∀ k, ((t.portAt k).mode ≠ (s.portAt k).mode ∨ (t.portAt k).order ≠ (s.portAt k).order ∨
        (t.portAt k).freq ≠ (s.portAt k).freq) →
      ∃ index freq mode order, i = .getPort index freq mode order ∧ index.toNat = k) ∧
    (t.dir ≠ s.dir → (∃ n, i = .configure n) ∨ i = .getGpio ∨ i = .terminate ∨ ∃ m o, i = .gpioSetDirection m o) ∧
    (t.out ≠ s.out → (∃ n, i = .configure n) ∨ i = .getGpio ∨ i = .terminate ∨ (∃ m o, i = .gpioSetDirection m o) ∨
      ∃ v, i = .gpioWrite v) ∧
    t.par = s.par

/-! ### Bit-engine -/

/-- R102. -/
def Obligations.KeepIsTheMaskOfSignificantBits : Prop :=
  (List.range 8).map keep = [0xFF#8, 0xFE#8, 0xFC#8, 0xF8#8, 0xF0#8, 0xE0#8, 0xC0#8, 0x80#8] ∧
  ∀ d, d ≤ 7 → keep d = (0xFF#8 <<< d) &&& 0xFF#8 ∧ keep d = ~~~((1#8 <<< d) - 1#8) ∧
    ∀ b, b < 8 → (keep d).getLsbD b = decide (d ≤ b)

/-- R103. -/
def Obligations.TrimMasksTheLastByteOnly : Prop :=
  (∀ d, d ≤ 7 → trim [] d = []) ∧ (∀ data, trim data 0 = data) ∧
  (∀ (data : List Byte) (last : Byte) (d : Nat), d ≤ 7 → trim (data ++ [last]) d = data ++ [last &&& keep d])

/-- R104, R105: the wire order of a byte; the train is the bytes' wire orders one after the other; it has eight bits a byte, and
bit `j` belongs to byte `j div 8` and is bit `7 - j mod 8` of it MSB first, bit `j mod 8` LSB first. -/
def Obligations.BitsGoOutInPortOrder : Prop :=
  (∀ b : Byte, ser .msbFirst b = [7, 6, 5, 4, 3, 2, 1, 0].map b.getLsbD ∧ ser .lsbFirst b = [0, 1, 2, 3, 4, 5, 6, 7].map b.getLsbD) ∧
  ∀ data : List Byte,
    (∀ order, bits order data = (data.map (ser order)).flatten ∧ (bits order data).length = 8 * data.length) ∧
    ∀ j, j < 8 * data.length →
      (bits .msbFirst data)[j]? = (data[j / 8]?).map (fun b => b.getLsbD (7 - j % 8)) ∧
      (bits .lsbFirst data)[j]? = (data[j / 8]?).map (fun b => b.getLsbD (j % 8))

/-- R106: of `8 * n` bits `deser` makes `n` bytes whose train they are: bit `7 - t` of byte `i` is bit `8 * i + t` MSB first, bit
`t` of it LSB first. -/
def Obligations.DeserialiseReadsTheTrain : Prop :=
  ∀ (n : Nat) (s : List Bool), s.length = 8 * n →
    (∀ order, (deser order s).length = n ∧ bits order (deser order s) = s) ∧
    ∀ i t, i < n → t < 8 →
      ((deser .msbFirst s)[i]?).map (fun b => b.getLsbD (7 - t)) = s[8 * i + t]? ∧
      ((deser .lsbFirst s)[i]?).map (fun b => b.getLsbD t) = s[8 * i + t]?

/-- R107: `deser` undoes `bits`, in both orders. -/
def Obligations.DeserialiseInvertsSerialise : Prop :=
  ∀ (order : BitOrder) (data : List Byte), deser order (bits order data) = data

/-- R114: the laws of `keep` and `trim`. -/
def Obligations.TrimLaws : Prop :=
  (∀ a b, a ≤ 7 → b ≤ 7 → keep a &&& keep b = keep (max a b)) ∧
  (∀ (x : List Byte) (a b : Nat), a ≤ 7 → b ≤ 7 → trim (trim x a) b = trim x (max a b)) ∧
  (∀ (x : List Byte) (d : Nat), (trim x d).length = x.length)

/-- R111: the dropped bits are sent as 0, MSB first at the last `d` pulses, LSB first at the first `d` pulses of the last byte;
every other bit goes out as it is. -/
def Obligations.DroppedBitsOnTheWire : Prop :=
  ∀ (data : List Byte) (d j : Nat), data ≠ [] → d ≤ 7 → j < 8 * data.length →
    (txbits .msbFirst data d)[j]? = (if 8 * data.length - d ≤ j then some false else (bits .msbFirst data)[j]?) ∧
    (txbits .lsbFirst data d)[j]?
      = (if 8 * (data.length - 1) ≤ j ∧ j < 8 * (data.length - 1) + d then some false else (bits .lsbFirst data)[j]?)

/-! ### Clock modes and the sequencer -/

/-- R124: the micro-steps of a transfer that runs are T1, T2, the pulses T3, T4 and T5, in order, with the clock, data out, the
select, `ACTIVE_CS` and `SEQ` as each of them leaves them; and what it leaves when it returns is what R123 and R126 say (the
history is log 14, the environment's tape log 8; that nothing of `SEQ` outlasts the run is log 15). -/
def Obligations.XferRunsTheMicroSteps : Prop :=
  ∀ (s : State) (k : Nat) (o : List Bool), Inv s → k < s.par.csMax →
    RunsXfer k o s (xfer k o s).2 ∧ (xfer k o s).1 = misoAnswers o.length s ∧ (xfer k o s).2.link = s.link

/-- R225: a transfer of `n` pulses has `4 + 3n` micro-steps with phase 0 and `4 + 2n` with phase 1. R125: the environment sees one of
them exactly if it changes a level: T1 unless the clock idles at its level and data out is 0, the first step of a phase 0 pulse unless
data out is at its bit already, T5 only if the last bit was 1, and from the bus at rest every other. Of what it sees no two neighbours
are equal, nor the first and the pair before (the history it is read off is log 14). -/
def Obligations.XferMicroStepCount : Prop :=
  ∀ (s : State) (k : Nat) (o : List Bool),
    (newEvents s (xfer k o s).2).length = (if cpha (s.portAt k).mode = false then 4 + 3 * o.length else 4 + 2 * o.length) ∧
    (Inv s → k < s.par.csMax →
      (sights (some s.pins) (newEvents s (xfer k o s).2)).map Option.isSome
        = xferShows s.par (s.portAt k).mode (s.drv.getLsbD s.par.sckPin) (s.drv.getLsbD s.par.mosiPin)
            (s.drv.getLsbD (s.par.csPin k)) o ∧
      ∀ (before after : List Sight) (a b : Sight),
        .pins s.pins :: environmentView (some s.pins) (newEvents s (xfer k o s).2) = before ++ a :: b :: after → a ≠ b)

/-- R120: every sample is taken in the micro-step of an edge of the clock: rising in modes 0 and 3, falling in modes 1 and 2. -/
def Obligations.SamplesFallOnTheModesEdge : Prop :=
  ∀ (s : State) (k : Nat) (o : List Bool) (before after : List PinEvent) (a b : MicroStep), Inv s → k < s.par.csMax →
    newEvents s (xfer k o s).2 = before ++ .micro a :: .micro b :: after → b.sample.isSome = true →
    let rising := decide ((s.portAt k).mode = .mode0 ∨ (s.portAt k).mode = .mode3)
    b.drv.getLsbD s.par.sckPin = rising ∧ a.drv.getLsbD s.par.sckPin = !rising

/-- R121: data out holds bit `j` at sample `j`, in every mode. -/
def Obligations.MosiIsStableAtEachSample : Prop :=
  ∀ (s : State) (k : Nat) (o : List Bool), Inv s → k < s.par.csMax →
    mosiAtSamples s.par (newEvents s (xfer k o s).2) = o ∧ samplesOf (newEvents s (xfer k o s).2) = (xfer k o s).1

/-- R127, R23: in a safe run, at every micro-step of every operation, select `k` is at the asserted level exactly while
`ACTIVE_CS` is `k`; so at most one is. -/
def Obligations.AtMostOneSelectAsserted : Prop :=
  ∀ (s t : State) (i : Instr), Inv s → PinInv s → exec i s = .next t →
    ∀ m, .micro m ∈ newEvents s t → ∀ k, k < t.csCount.toNat →
      (m.drv.getLsbD (s.par.csPin k) = s.par.csActive ↔ m.activeCs = some k)

/-- R123, R125: `XFER` reads the mode of its port, and neither its order nor its frequency; nor does it read `SEQ`: whatever stands there
before, its samples and its events are the same, and so is the state after it but for `SEQ` (which it leaves as log 15 says). -/
def Obligations.XferReadsTheModeAlone : Prop :=
  ∀ (s : State) (k : Nat) (o : List Bool),
    (∀ q : Port, k < s.ports.length → q.mode = (s.portAt k).mode →
      (xfer k o { s with ports := s.ports.set k q }).1 = (xfer k o s).1 ∧
      (xfer k o { s with ports := s.ports.set k q }).2 = { (xfer k o s).2 with ports := s.ports.set k q }) ∧
    (∀ q : Seq, (xfer k o { s with seq := q }).1 = (xfer k o s).1 ∧
      (xfer k o { s with seq := q }).2 = { (xfer k o s).2 with seq := { q with st := .idle } })

/-! ### Transfers -/

/-- R146: the checks of the three transfers, in order. That check 6 keeps the registers is R184, and that it is an answer after which
the state goes on is log 10. -/
def Obligations.TransferChecksInOrder : Prop :=
  ∀ (s : State) (i : Instr) (index d : BitVec 8) (len : Nat), IsTransfer i index d len → TransferErrors i index d len s

/-- R140: SPI_WRITE sends the data with its last byte trimmed and answers OK with no value; its errors are those of R146. The
micro-steps are read off the model's history (log 14), the environment's answers off its tape (log 8). -/
def Obligations.SpiWriteSendsTheTrimmedData : Prop :=
  ∀ (s : State) (index d : BitVec 8) (data : List Byte), Inv s →
    TransferErrors (.spiWrite index data d) index d data.length s ∧
    (LegalFields d data.length → PortReady index s →
      ∃ t, exec (.spiWrite index data d) s = .next t ∧ t.rsp = some ⟨0x00000000#32, []⟩ ∧
        t.link = s.link.asked ∧ RunsXfer index.toNat (bits (s.portAt index.toNat).order (trim data d.toInt.toNat)) s t)

/-- R142: SPI_READ drives data out low, and answers exactly `length` bytes: what the environment put on MISO, deserialised, the
low `droptail` bits of the last byte forced to 0; its errors are those of R146. The environment's answers are the model's tape and
then free values (log 8). -/
def Obligations.SpiReadReturnsTheSamples : Prop :=
  ∀ (s : State) (index d : BitVec 8) (length : BitVec 16), Inv s →
    TransferErrors (.spiRead index length d) index d length.toNat s ∧
    (LegalFields d length.toNat → PortReady index s →
      ∃ t rx, exec (.spiRead index length d) s = .next t ∧ t.rsp = some ⟨length.setWidth 32, rx⟩ ∧ rx.length = length.toNat ∧
        rx = trim (deser (s.portAt index.toNat).order (misoAnswers (8 * length.toNat) s)) d.toInt.toNat ∧
        t.link = s.link.asked ∧ RunsXfer index.toNat (List.replicate (8 * length.toNat) false) s t)

/-- R144, half-duplex with a read phase: one select, the write phase whole, only the read phase returned and trimmed. -/
def Obligations.HalfDuplexExchangeWritesThenReads : Prop :=
  ∀ (s : State) (index d : BitVec 8) (dataOut : List Byte) (lengthIn : BitVec 16), Inv s → 0 < lengthIn.toNat →
    TransferErrors (.spiExchange index dataOut lengthIn false d) index d lengthIn.toNat s ∧
    (LegalFields d lengthIn.toNat → PortReady index s →
      ∃ t rx, exec (.spiExchange index dataOut lengthIn false d) s = .next t ∧ t.rsp = some ⟨lengthIn.setWidth 32, rx⟩ ∧
        rx.length = lengthIn.toNat ∧
        rx = trim (deser (s.portAt index.toNat).order
          ((misoAnswers (8 * (dataOut.length + lengthIn.toNat)) s).drop (8 * dataOut.length))) d.toInt.toNat ∧
        t.link = s.link.asked ∧ RunsXfer index.toNat
          (bits (s.portAt index.toNat).order dataOut ++ List.replicate (8 * lengthIn.toNat) false) s t)

/-- R144, full duplex: the trimmed data goes out, and as many bytes come back, trimmed the same way; `length_in` is not looked
at. -/
def Obligations.DuplexExchangeReturnsAsManyBytes : Prop :=
  ∀ (s : State) (index d : BitVec 8) (dataOut : List Byte) (lengthIn : BitVec 16), Inv s → dataOut.length ≤ maxLen →
    TransferErrors (.spiExchange index dataOut lengthIn true d) index d dataOut.length s ∧
    (LegalFields d dataOut.length → PortReady index s →
      ∃ t rx, exec (.spiExchange index dataOut lengthIn true d) s = .next t ∧
        t.rsp = some ⟨BitVec.ofNat 32 dataOut.length, rx⟩ ∧ rx.length = dataOut.length ∧
        rx = trim (deser (s.portAt index.toNat).order (misoAnswers (8 * dataOut.length) s)) d.toInt.toNat ∧
        t.link = s.link.asked ∧ RunsXfer index.toNat (bits (s.portAt index.toNat).order (trim dataOut d.toInt.toNat)) s t)

/-- R73, first equality, and the second branch of R144: SPI_WRITE is the half-duplex exchange without a read phase. -/
def Obligations.WriteIsExchangeWithoutReadPhase : Prop :=
  ∀ (s : State) (index d : BitVec 8) (data : List Byte), exec (.spiExchange index data 0#16 false d) s = exec (.spiWrite index data d) s

/-- R73, second equality: SPI_READ is the half-duplex exchange that sends nothing. -/
def Obligations.ReadIsExchangeWithoutData : Prop :=
  ∀ (s : State) (index d : BitVec 8) (length : BitVec 16),
    exec (.spiExchange index [] length false d) s = exec (.spiRead index length d) s

/-- R115: the dropped bits of a received last byte are 0, whatever was sampled. -/
def Obligations.DroppedBitsAreReceivedAsZero : Prop :=
  ∀ (s t : State) (i : Instr) (index d : BitVec 8) (len : Nat) (r : Response) (last : Byte),
    IsTransfer i index d len → exec i s = .next t → t.rsp = some r → r.payload.getLast? = some last →
    ∀ b, b < d.toInt.toNat → last.getLsbD b = false

/-- R145: under a loopback a duplex exchange returns `trim(data, d)`. The loopback is said of the operation's own samples: each
was the level data out had at that micro-step. -/
def Obligations.DuplexLoopbackReturnsTheTrimmedData : Prop :=
  ∀ (s t : State) (index d : BitVec 8) (data : List Byte) (lengthIn : BitVec 16), Inv s → data.length ≤ maxLen →
    LegalFields d data.length → PortReady index s → exec (.spiExchange index data lengthIn true d) s = .next t →
    samplesOf (newEvents s t) = mosiAtSamples s.par (newEvents s t) →
    t.rsp = some ⟨BitVec.ofNat 32 data.length, trim data d.toInt.toNat⟩

/-- R147: under the same loopback a read returns zeros. -/
def Obligations.WireLoopbackReadsZeros : Prop :=
  ∀ (s t : State) (index d : BitVec 8) (length : BitVec 16), Inv s → LegalFields d length.toNat → PortReady index s →
    exec (.spiRead index length d) s = .next t →
    samplesOf (newEvents s t) = mosiAtSamples s.par (newEvents s t) →
    t.rsp = some ⟨length.setWidth 32, List.replicate length.toNat 0#8⟩

/-- The source's first property (95_test_vectors.md S1): if the environment plays back, during a read, the bits the write before
it put on data out, the read returns the data with the low `d` bits of the last byte forced to 0. -/
def Obligations.StoringLoopbackReturnsTheTrimmedData : Prop :=
  ∀ (s t u : State) (index d : BitVec 8) (data : List Byte), Inv s → 1 ≤ data.length → data.length ≤ maxLen →
    LegalFields d data.length → PortReady index s → exec (.spiWrite index data d) s = .next t →
    exec (.spiRead index (BitVec.ofNat 16 data.length) d) t = .next u →
    samplesOf (newEvents t u) = mosiAtSamples s.par (newEvents s t) →
    u.rsp = some ⟨BitVec.ofNat 32 data.length, trim data d.toInt.toNat⟩

/-- R148, R52: a transfer, however it ends, leaves every register alone, every `OE`, the latch of every pin outside the SPI bus,
and at each of its micro-steps every latch outside clock, data out and its one select; unless it ends in a TransportError, which
leaves the levels of the SPI bus pins open (R184, U2, log 11), those latches are as before at its end too. R55: of a transfer that
finds the bus at rest and does not end so, nothing outlasts it in the block but the level of the clock (`SEQ`: log 15). -/
def Obligations.TransfersLeaveOtherPinsAlone : Prop :=
  ∀ (s t : State) (i : Instr) (index d : BitVec 8) (len : Nat), Inv s → IsTransfer i index d len → exec i s = .next t →
    SameRegisters s t ∧ t.oe = s.oe ∧ (∀ p, s.spiClaim.getLsbD p = false → t.drv.getLsbD p = s.drv.getLsbD p) ∧
    (∀ p, p ≠ s.par.sckPin → p ≠ s.par.mosiPin → p ≠ s.par.csPin index.toNat →
      (t.rsp ≠ some ⟨0x04000000#32, []⟩ → t.drv.getLsbD p = s.drv.getLsbD p) ∧
      ∀ m, .micro m ∈ newEvents s t → m.drv.getLsbD p = s.drv.getLsbD p ∧ m.oe = s.oe) ∧
    (PinInv s → t.rsp ≠ some ⟨0x04000000#32, []⟩ →
      t = { s with drv := t.drv, rsp := t.rsp, link := t.link, envIn := t.envIn, fresh := t.fresh, history := t.history } ∧
      ∀ p, p ≠ s.par.sckPin → t.drv.getLsbD p = s.drv.getLsbD p)

/-- R83: no operation reads a stored frequency: two states that differ only there answer the same and go on alike. -/
def Obligations.FrequencyIsNeverRead : Prop :=
  ∀ (s t : State) (i : Instr), exec i s = .next t →
    ∃ u, exec i (eraseFreq s) = .next u ∧ eraseFreq u = eraseFreq t

/-! ### GPIO operations -/

/-- R168: the checks common to the three operations. -/
def Obligations.BankChecksComeFirst : Prop :=
  ∀ (s : State) (i : Instr), ((∃ m o, i = .gpioSetDirection m o) ∨ (∃ v, i = .gpioWrite v) ∨ i = .gpioRead) →
    (s.isOpen = false ∨ s.gpioClaimed = false) → exec i s = .next { s with rsp := some ⟨0x01000000#32, []⟩ }

/-- R160. The writes take effect together (R8): one pin event in the model's history (log 14). A pin outside the mask keeps `OUT` as
long as `OUT` lies within `DIR`, which R20 (b) says it does. A broken link is answered and keeps the registers (R184, log 10); the
latches it leaves open are log 11, the link's answers log 9. -/
def Obligations.SetDirectionChangesTheNamedPins : Prop :=
  ∀ (s : State) (m o : PinWord),
    ((s.isOpen = false ∨ s.gpioClaimed = false) → exec (.gpioSetDirection m o) s = .next { s with rsp := some ⟨0x01000000#32, []⟩ }) ∧
    (s.isOpen = true → s.gpioClaimed = true →
      (m &&& ~~~s.gpioClaim ≠ 0#16 → exec (.gpioSetDirection m o) s = .next { s with rsp := some ⟨0x02000000#32, []⟩ }) ∧
      (m &&& ~~~s.gpioClaim = 0#16 → s.linkOk = false →
        ∃ t, exec (.gpioSetDirection m o) s = .next t ∧ t.rsp = some ⟨0x04000000#32, []⟩ ∧ SameRegisters s t) ∧
      (m &&& ~~~s.gpioClaim = 0#16 → s.linkOk = true →
        ∃ t, exec (.gpioSetDirection m o) s = .next t ∧ t.rsp = some ⟨0x00000000#32, []⟩ ∧
          (∀ p, t.dir.getLsbD p = if m.getLsbD p then o.getLsbD p else s.dir.getLsbD p) ∧
          (∀ p, t.out.getLsbD p = (s.out.getLsbD p && t.dir.getLsbD p)) ∧
          (s.out &&& ~~~s.dir = 0#16 → ∀ p, m.getLsbD p = false → t.out.getLsbD p = s.out.getLsbD p) ∧
          (∀ p, t.oe.getLsbD p = if m.getLsbD p then t.dir.getLsbD p else s.oe.getLsbD p) ∧
          (∀ p, t.drv.getLsbD p = if m.getLsbD p && t.dir.getLsbD p then t.out.getLsbD p else s.drv.getLsbD p) ∧
          t = { s with dir := t.dir, out := t.out, oe := t.oe, drv := t.drv, rsp := t.rsp, link := s.link.asked,
                       history := s.history ++ [.micro ⟨t.drv, t.oe, s.activeCs, s.seq, none⟩] }))

/-- R163: a 1 on a pin that is no output fails and does nothing; else every output pin takes its bit, in one micro-step (the
history is log 14). A broken link is answered and keeps the registers, and DRV of the outputs is open then (R184, log 10, log 11); the
link's answers are log 9. -/
def Obligations.GpioWriteDrivesTheOutputs : Prop :=
  ∀ (s : State) (v : PinWord),
    ((s.isOpen = false ∨ s.gpioClaimed = false) → exec (.gpioWrite v) s = .next { s with rsp := some ⟨0x01000000#32, []⟩ }) ∧
    (s.isOpen = true → s.gpioClaimed = true →
      ((∃ p, v.getLsbD p = true ∧ s.dir.getLsbD p = false) →
        exec (.gpioWrite v) s = .next { s with rsp := some ⟨0x03000000#32, []⟩ }) ∧
      ((∀ p, v.getLsbD p = true → s.dir.getLsbD p = true) → s.linkOk = false →
        ∃ t, exec (.gpioWrite v) s = .next t ∧ t.rsp = some ⟨0x04000000#32, []⟩ ∧ SameRegisters s t) ∧
      ((∀ p, v.getLsbD p = true → s.dir.getLsbD p = true) → s.linkOk = true →
        ∃ t, exec (.gpioWrite v) s = .next t ∧ t.rsp = some ⟨0x00000000#32, []⟩ ∧
          (∀ p, t.out.getLsbD p = if s.dir.getLsbD p then v.getLsbD p else s.out.getLsbD p) ∧
          (∀ p, t.drv.getLsbD p = if s.dir.getLsbD p then v.getLsbD p else s.drv.getLsbD p) ∧
          (s.out &&& ~~~s.dir = 0#16 → t.out = v) ∧
          t = { s with out := t.out, drv := t.drv, rsp := t.rsp, link := s.link.asked,
                       history := s.history ++ [.micro ⟨t.drv, s.oe, s.activeCs, s.seq, none⟩] }))

/-- R166: the snapshot of the claimed pins, 0 elsewhere: the driven level where the block drives the pin, else the environment's
answer (log 8); while the bank's latches follow its registers (R20 (c)) that is `OUT` at an output pin and the environment's level at an
input pin. No register and no pin changes, and the environment is asked only if a claimed pin is not driven. -/
def Obligations.GpioReadSamplesTheClaimedPins : Prop :=
  ∀ s : State,
    ((s.isOpen = false ∨ s.gpioClaimed = false) → exec .gpioRead s = .next { s with rsp := some ⟨0x01000000#32, []⟩ }) ∧
    (s.isOpen = true → s.gpioClaimed = true →
      (s.linkOk = false → ∃ t, exec .gpioRead s = .next t ∧ t.rsp = some ⟨0x04000000#32, []⟩ ∧ SameRegisters s t) ∧
      (s.linkOk = true →
        ∃ t snap, exec .gpioRead s = .next t ∧ t.rsp = some ⟨(snap : PinWord).setWidth 32, []⟩ ∧
          (∀ p, snap.getLsbD p
            = (s.gpioClaim.getLsbD p && if s.oe.getLsbD p then s.drv.getLsbD p else s.envNow.getLsbD p)) ∧
          (PinInv s → ∀ p, snap.getLsbD p
            = (s.gpioClaim.getLsbD p && if s.dir.getLsbD p then s.out.getLsbD p else s.envNow.getLsbD p)) ∧
          t = { s with rsp := t.rsp, link := s.link.asked, envIn := t.envIn, fresh := t.fresh } ∧
          ((∀ p, s.gpioClaim.getLsbD p = true → s.oe.getLsbD p = true) → t.envIn = s.envIn ∧ t.fresh = s.fresh)))

/-- R169, R52, R20 (d): a GPIO operation, however it ends, changes `DRV` and `OE` at claimed pins only, and no port and no owner;
one that finds the link up leaves `ACTIVE_CS` and `SEQ` as they were too (after a TransportError these are free: R184, log 11). -/
def Obligations.GpioLeavesTheBusAlone : Prop :=
  ∀ (s t : State) (i : Instr), Inv s → ((∃ m o, i = .gpioSetDirection m o) ∨ (∃ v, i = .gpioWrite v) ∨ i = .gpioRead) →
    exec i s = .next t →
    (∀ p, s.gpioClaim.getLsbD p = false → t.drv.getLsbD p = s.drv.getLsbD p ∧ t.oe.getLsbD p = s.oe.getLsbD p) ∧
    t.ports = s.ports ∧ t.owner = s.owner ∧ (s.linkOk = true → t.activeCs = s.activeCs ∧ t.seq = s.seq)

/-- R170: with input pin `a` wired to output pin `b`, a write is read back at both, if the link holds for both operations. The wire
is said of the environment's answer to that read (log 8). -/
def Obligations.PairedPinsReadBack : Prop :=
  ∀ (s : State) (v : PinWord) (a b : Nat), Good s → s.faulted = false → BankReady s →
    (∀ p, v.getLsbD p = true → s.dir.getLsbD p = true) →
    s.gpioClaim.getLsbD a = true → s.dir.getLsbD a = false → s.dir.getLsbD b = true →
    ∃ t, exec (.gpioWrite v) s = .next t ∧ (t.linkOk = true →
      ∃ u snap, exec .gpioRead t = .next u ∧ u.rsp = some ⟨(snap : PinWord).setWidth 32, []⟩ ∧
        (t.envNow.getLsbD a = (pinLevels t.drv t.oe t.envNow).getLsbD b →
          snap.getLsbD a = v.getLsbD b ∧ snap.getLsbD b = v.getLsbD b))

/-- R55: GPIO_WRITE and GPIO_SET_DIRECTION are idempotent: the second of two equal commands, the link holding for both, changes
nothing but the model's history (log 14) and the link's coming answers (log 9). -/
def Obligations.BankCommandsAreIdempotent : Prop :=
  ∀ (s t : State) (i : Instr), ((∃ m o, i = .gpioSetDirection m o) ∨ (∃ v, i = .gpioWrite v)) → BankReady s →
    exec i s = .next t → t.linkOk = true → ∃ u, exec i t = .next u ∧ u = { t with history := u.history, link := u.link }

/-- R222, R160: a pin turned from output to input and back drives 0, whatever it drove before; the link holds for both commands. -/
def Obligations.ReturningOutputDrivesZero : Prop :=
  ∀ (s : State) (p : Nat), BankReady s → s.gpioClaim.getLsbD p = true →
    ∃ t, exec (.gpioSetDirection (pinBit p) 0#16) s = .next t ∧ t.oe.getLsbD p = false ∧ (t.linkOk = true →
      ∃ u, exec (.gpioSetDirection (pinBit p) (pinBit p)) t = .next u ∧ u.oe.getLsbD p = true ∧ u.drv.getLsbD p = false)

/-! ### Errors -/

/-- R186: an operation that ends in ConfigurationError, InvalidArgumentError or GpioConflictError has changed no state, driven no
pin and taken no sample. The inputs too are as before, but that a CONFIGURE may have asked `device_present` (R80, log 9). -/
def Obligations.ErrorsArePrecise : Prop :=
  ∀ (s t : State) (i : Instr) (r : Response), exec i s = .next t → t.rsp = some r →
    (r.word.extractLsb' 24 8 = 1#8 ∨ r.word.extractLsb' 24 8 = 2#8 ∨ r.word.extractLsb' 24 8 = 3#8) →
    t = { s with rsp := some r, device := t.device } ∧ ((∀ n, i ≠ .configure n) → t.device = s.device)

/-- R187, R188: every operation answers, and the status is the one the table gives, in its order. That status 4 is an answer after
which there is a next state is log 10. -/
def Obligations.EveryOperationAgainstEveryError : Prop :=
  ∀ (s : State) (i : Instr), ∃ t r, exec i s = .next t ∧ t.rsp = some r ∧ r.word.extractLsb' 24 8 = expectedStatus s i

/-- R183: GpioConflictError is raised by GPIO_WRITE alone, when the value has a 1 at a pin that is not then an output;
GPIO_SET_DIRECTION answers InvalidArgumentError for a pin that is not claimed. -/
def Obligations.OnlyGpioWriteConflicts : Prop :=
  ∀ (s t : State) (i : Instr) (r : Response), exec i s = .next t → t.rsp = some r →
    (r.word.extractLsb' 24 8 = 3#8 ↔
      ∃ v, i = .gpioWrite v ∧ s.isOpen = true ∧ s.gpioClaimed = true ∧ ∃ p, v.getLsbD p = true ∧ s.dir.getLsbD p = false) ∧
    (∀ m o, i = .gpioSetDirection m o → s.isOpen = true → s.gpioClaimed = true →
      (∃ p, m.getLsbD p = true ∧ s.gpioClaim.getLsbD p = false) → r.word.extractLsb' 24 8 = 2#8)

/-- R184: after a TransportError the registers are as before, and so is every latch that the operation could not have written:
every `DRV` outside the SPI bus pins for a transfer (U2), outside the outputs for a GPIO_WRITE, outside the mask for a
GPIO_SET_DIRECTION, every one for a GPIO_READ; every `OE` outside the mask of a GPIO_SET_DIRECTION. The latches left, `ACTIVE_CS` and
`SEQ` are free values: the statement says of the last two only that they are in range (log 10, log 11). The marker `faulted` and the
event `lost` are the model's (log 12, log 14). -/
def Obligations.TransportErrorKeepsTheRegisters : Prop :=
  ∀ (s t : State) (i : Instr) (r : Response), Inv s → exec i s = .next t → t.rsp = some r → r.word.extractLsb' 24 8 = 4#8 →
    r = ⟨0x04000000#32, []⟩ ∧ SameRegisters s t ∧ t.faulted = true ∧ newEvents s t = [.lost] ∧
    (∀ k, t.activeCs = some k → k < s.par.csMax) ∧ t.seq.j ≤ t.seq.n ∧ t.seq.n ≤ 8 * 2 * maxLen ∧
    ((∀ m o, i ≠ .gpioSetDirection m o) → t.oe = s.oe) ∧
    (∀ index d len, IsTransfer i index d len → ∀ p, s.spiClaim.getLsbD p = false → t.drv.getLsbD p = s.drv.getLsbD p) ∧
    (∀ m o, i = .gpioSetDirection m o → ∀ p, m.getLsbD p = false → t.oe.getLsbD p = s.oe.getLsbD p ∧ t.drv.getLsbD p = s.drv.getLsbD p) ∧
    (∀ v, i = .gpioWrite v → ∀ p, s.dir.getLsbD p = false → t.drv.getLsbD p = s.drv.getLsbD p) ∧
    (i = .gpioRead → t.drv = s.drv)

/-- R71, R180: an operation ends in exactly one of five outcomes, in the layout of R71. -/
def Obligations.ResponsesHaveTheLayout : Prop :=
  ∀ (s : State) (i : Instr), i.wellFormed = true → ∃ t r, exec i s = .next t ∧ t.rsp = some r ∧
    r.word.extractLsb' 24 8 ≤ 4#8 ∧ r.word.extractLsb' 16 8 = 0#8 ∧
    (r.word.extractLsb' 24 8 ≠ 0#8 → r.word.extractLsb' 0 16 = 0#16 ∧ r.payload = []) ∧
    (r.word.extractLsb' 24 8 = 0#8 →
      match i with
      | .configure _ => r.word.extractLsb' 0 16 = 0#16 ∧ r.payload = []
      | .getPort index _ _ _ => r.word.extractLsb' 0 16 = index.setWidth 16 ∧ r.payload = []
      | .getGpio => r.word.extractLsb' 0 16 = t.gpioClaim ∧ r.payload = []
      | .terminate => r.word.extractLsb' 0 16 = 0#16 ∧ r.payload = []
      | .spiWrite _ _ _ => r.word.extractLsb' 0 16 = 0#16 ∧ r.payload = []
      | .spiRead _ _ _ => r.payload.length = (r.word.extractLsb' 0 16).toNat
      | .spiExchange _ _ _ _ _ => r.payload.length = (r.word.extractLsb' 0 16).toNat
      | .gpioSetDirection _ _ => r.word.extractLsb' 0 16 = 0#16 ∧ r.payload = []
      | .gpioWrite _ => r.word.extractLsb' 0 16 = 0#16 ∧ r.payload = []
      | .gpioRead => r.word.extractLsb' 0 16 = (s.samplePins s.gpioClaim).1 ∧ r.payload = [])

/-! ### Invariants of the whole machine -/

/-- R14, R16, R20, R24, R88 and the rules they gather: every step keeps the block's invariant, from every state that meets it. -/
def Obligations.EveryStepKeepsTheInvariant : Prop :=
  ∀ s t : State, Good s → step s = .next t → Good t

/-- The state after reset meets the invariant, for every parameter record that meets R6. -/
def Obligations.ResetMeetsTheInvariant : Prop :=
  (∀ c : Params, c.valid = true → Good (State.resetWith c)) ∧ Params.default.valid = true

/-- TERMINATE restores the whole invariant, also after a TransportError (R184: "TERMINATE, which sets every pin and register
regardless"). -/
def Obligations.TerminateMakesTheRunSafeAgain : Prop :=
  ∀ s : State, Inv s → ∃ t, exec .terminate s = .next t ∧ Good t ∧ t.faulted = false
end

