-- ==== Sys2Proof/Laws/BitEngine.lean ====
section
/-! SUPPORT. The bit-engine: how `bits`, `deser` and `trim` act on a list one byte at a time. -/

namespace Sys2Proof.Machine

@[simp] theorem ser_length (order : BitOrder) (b : Byte) : (ser order b).length = 8 := by cases order <;> rfl

@[simp] theorem bits_nil (order : BitOrder) : bits order [] = [] := rfl

@[simp] theorem bits_cons (order : BitOrder) (b : Byte) (data : List Byte) :
    bits order (b :: data) = ser order b ++ bits order data := rfl

@[simp] theorem bits_length (order : BitOrder) (data : List Byte) : (bits order data).length = 8 * data.length := by
  induction data with
  | nil => rfl
  | cons b data ih => simp [ih]; omega

@[simp] theorem trim_nil (d : Nat) : trim [] d = [] := rfl

@[simp] theorem trim_singleton (b : Byte) (d : Nat) : trim [b] d = [b &&& keep d] := rfl

@[simp] theorem trim_cons_cons (b c : Byte) (rest : List Byte) (d : Nat) :
    trim (b :: c :: rest) d = b :: trim (c :: rest) d := rfl

@[simp] theorem trim_length (data : List Byte) (d : Nat) : (trim data d).length = data.length := by
  induction data, d using trim.induct with
  | case1 d => rfl
  | case2 b d => rfl
  | case3 b c rest d ih => simp_all

/-- What `trim` does seen from the end of the list. -/
theorem trim_concat (data : List Byte) (last : Byte) (d : Nat) : trim (data ++ [last]) d = data ++ [last &&& keep d] := by
  induction data with
  | nil => rfl
  | cons b data ih => cases data with
    | nil => rfl
    | cons c rest => simpa using ih

/-- A byte read back from its own wire order. -/
theorem deserByte_ser (b : Byte) :
    deserByte .msbFirst (b.getLsbD 7) (b.getLsbD 6) (b.getLsbD 5) (b.getLsbD 4) (b.getLsbD 3) (b.getLsbD 2) (b.getLsbD 1)
        (b.getLsbD 0) = b ∧
      deserByte .lsbFirst (b.getLsbD 0) (b.getLsbD 1) (b.getLsbD 2) (b.getLsbD 3) (b.getLsbD 4) (b.getLsbD 5) (b.getLsbD 6)
        (b.getLsbD 7) = b := by
  revert b; decide

/-- Eight bits read back from the byte they make. -/
theorem ser_deserByte (order : BitOrder) (t0 t1 t2 t3 t4 t5 t6 t7 : Bool) :
    ser order (deserByte order t0 t1 t2 t3 t4 t5 t6 t7) = [t0, t1, t2, t3, t4, t5, t6, t7] := by
  cases order <;> revert t0 t1 t2 t3 t4 t5 t6 t7 <;> decide

@[simp] theorem deser_ser_append (order : BitOrder) (b : Byte) (s : List Bool) :
    deser order (ser order b ++ s) = b :: deser order s := by
  cases order with
  | msbFirst => exact congrArg (· :: deser .msbFirst s) (deserByte_ser b).1
  | lsbFirst => exact congrArg (· :: deser .lsbFirst s) (deserByte_ser b).2

/-- A list of at least eight bits begins with the wire order of a byte. -/
theorem exists_ser_append (order : BitOrder) (s : List Bool) (h : 8 ≤ s.length) :
    ∃ b rest, s = ser order b ++ rest ∧ rest.length + 8 = s.length := by
  match s, h with
  | t0 :: t1 :: t2 :: t3 :: t4 :: t5 :: t6 :: t7 :: rest, _ =>
    exact ⟨deserByte order t0 t1 t2 t3 t4 t5 t6 t7, rest, by simp [ser_deserByte], by simp⟩

/-- The bytes of `8 * n` bits are `n`. -/
theorem deser_length (order : BitOrder) (n : Nat) (s : List Bool) (h : s.length = 8 * n) : (deser order s).length = n := by
  induction n generalizing s with
  | zero => have : s = [] := by simpa using h
            subst this; rfl
  | succ n ih =>
    obtain ⟨b, rest, rfl, hl⟩ := exists_ser_append order s (by omega)
    have := ih rest (by omega)
    simp [this]

@[simp] theorem zeros_length (n : Nat) : (zeros n).length = 8 * n := by simp [zeros]

theorem rxbytes_length (order : BitOrder) (n d : Nat) (s : List Bool) (h : s.length = 8 * n) :
    (rxbytes order s d).length = n := by simp [rxbytes, deser_length order n s h]

theorem txbits_length (order : BitOrder) (data : List Byte) (d : Nat) : (txbits order data d).length = 8 * data.length := by
  simp [txbits]

/-- `keep` bit by bit (R102). -/
theorem getLsbD_keep (d b : Nat) (hb : b < 8) : (keep d).getLsbD b = decide (d ≤ b) := by
  simp only [keep, BitVec.getLsbD_shiftLeft, hb, decide_true, Bool.true_and]
  by_cases h : b < d
  · simp [h]
  · have hlt : b - d < 8 := by omega
    have : ∀ k, k < 8 → (0xFF#8).getLsbD k = true := by decide
    simp only [h, decide_false, Bool.not_false, Bool.true_and, this _ hlt]
    simp; omega

end Sys2Proof.Machine
end

