-- ==== Sys2Proof/Laws/PerInstr.lean ====
section
/-! SUPPORT. Facts about every instruction as syntax, one lemma per constructor: its command word lies in its row of the opcode
map (R63), and the word's fields give its operands back (R61, R62). -/

namespace Sys2Proof.Laws

/-- Two words with the same sixty-four bits are one. -/
theorem word_ext {x y : Word} (h : ∀ i, i < 64 → x.getLsbD i = y.getLsbD i) : x = y := BitVec.eq_of_getLsbD_eq fun i hi => h i hi

namespace EncodedRow

/-- The command word of an instruction is selected by the row of its operation. -/
def Statement (i : Instr) : Prop := commandWord i &&& i.op.mask = i.op.pattern

theorem configure (n : BitVec 8) : Statement (.configure n) :=
  word_ext fun i hi => by interval_cases i <;> simp [commandWord, Instr.op, Op.mask, Op.pattern, place]

theorem getPort (index : BitVec 8) (freq : BitVec 32) (mode : Mode) (order : BitOrder) :
    Statement (.getPort index freq mode order) :=
  word_ext fun i hi => by interval_cases i <;> simp [commandWord, Instr.op, Op.mask, Op.pattern, place]

theorem getGpio : Statement .getGpio := by unfold Statement; decide

theorem terminate : Statement .terminate := by unfold Statement; decide

theorem spiWrite (index : BitVec 8) (data : List Byte) (droptail : BitVec 8) : Statement (.spiWrite index data droptail) :=
  word_ext fun i hi => by interval_cases i <;> simp [commandWord, Instr.op, Op.mask, Op.pattern, place]

theorem spiRead (index : BitVec 8) (length : BitVec 16) (droptail : BitVec 8) : Statement (.spiRead index length droptail) :=
  word_ext fun i hi => by interval_cases i <;> simp [commandWord, Instr.op, Op.mask, Op.pattern, place]

theorem spiExchange (index : BitVec 8) (dataOut : List Byte) (lengthIn : BitVec 16) (duplex : Bool) (droptail : BitVec 8) :
    Statement (.spiExchange index dataOut lengthIn duplex droptail) :=
  word_ext fun i hi => by interval_cases i <;> simp [commandWord, Instr.op, Op.mask, Op.pattern, place]

theorem gpioSetDirection (pinMask outputMask : PinWord) : Statement (.gpioSetDirection pinMask outputMask) :=
  word_ext fun i hi => by interval_cases i <;> simp [commandWord, Instr.op, Op.mask, Op.pattern, place]

theorem gpioWrite (value : PinWord) : Statement (.gpioWrite value) :=
  word_ext fun i hi => by interval_cases i <;> simp [commandWord, Instr.op, Op.mask, Op.pattern, place]

theorem gpioRead : Statement .gpioRead := by unfold Statement; decide

end EncodedRow

namespace FieldsReadBack

/-- The fields of an instruction's command word, with its payload, are its operands; the word asks for the payload it has. -/
def Statement (i : Instr) : Prop :=
  i.wellFormed = true → instrOf i.op (commandWord i) i.payload = i ∧ payloadLength i.op (commandWord i) = i.payload.length

theorem configure (n : BitVec 8) : Statement (.configure n) := fun _ => by
  refine ⟨?_, rfl⟩
  show Instr.configure _ = _
  congr 1
  exact BitVec.eq_of_getLsbD_eq fun i hi => by interval_cases i <;> simp [commandWord, place]

theorem modeOfBits_modeBits (m : Mode) : modeOfBits (modeBits m) = m := by cases m <;> rfl

theorem orderOfBit_orderBit (o : BitOrder) : orderOfBit (orderBit o) = o := by cases o <;> rfl

theorem getPort (index : BitVec 8) (freq : BitVec 32) (mode : Mode) (order : BitOrder) :
    Statement (.getPort index freq mode order) := fun _ => by
  refine ⟨?_, rfl⟩
  show Instr.getPort _ _ (modeOfBits _) (orderOfBit _) = _
  have h1 : (commandWord (.getPort index freq mode order)).extractLsb' 48 8 = index :=
    BitVec.eq_of_getLsbD_eq fun i hi => by interval_cases i <;> simp [commandWord, place]
  have h2 : (commandWord (.getPort index freq mode order)).extractLsb' 0 32 = freq :=
    BitVec.eq_of_getLsbD_eq fun i hi => by interval_cases i <;> simp [commandWord, place]
  have h3 : (commandWord (.getPort index freq mode order)).extractLsb' 40 2 = modeBits mode :=
    BitVec.eq_of_getLsbD_eq fun i hi => by interval_cases i <;> simp [commandWord, place]
  have h4 : (commandWord (.getPort index freq mode order)).getLsbD 42 = orderBit order := by simp [commandWord, place]
  rw [h1, h2, h3, h4, modeOfBits_modeBits, orderOfBit_orderBit]

theorem getGpio : Statement .getGpio := fun _ => ⟨rfl, rfl⟩

theorem terminate : Statement .terminate := fun _ => ⟨rfl, rfl⟩

/-- `len_out` holds the length of a payload that fits it. -/
theorem toNat_payload {data : List Byte} (h : data.length ≤ maxLen) : (BitVec.ofNat 16 data.length).toNat = data.length := by
  have : data.length < 2 ^ 16 := by simp [maxLen] at h; omega
  simpa using this

theorem spiWrite (index : BitVec 8) (data : List Byte) (droptail : BitVec 8) : Statement (.spiWrite index data droptail) :=
  fun hw => by
  have hl : data.length ≤ maxLen := of_decide_eq_true hw
  have h1 : (commandWord (.spiWrite index data droptail)).extractLsb' 48 8 = index :=
    BitVec.eq_of_getLsbD_eq fun i hi => by interval_cases i <;> simp [commandWord, place]
  have h2 : (commandWord (.spiWrite index data droptail)).extractLsb' 40 8 = droptail :=
    BitVec.eq_of_getLsbD_eq fun i hi => by interval_cases i <;> simp [commandWord, place]
  have h3 : (commandWord (.spiWrite index data droptail)).extractLsb' 16 16 = BitVec.ofNat 16 data.length :=
    BitVec.eq_of_getLsbD_eq fun i hi => by interval_cases i <;> simp [commandWord, place]
  constructor
  · show Instr.spiWrite _ _ _ = _
    rw [h1, h2]; rfl
  · show BitVec.toNat _ = _
    rw [h3]; exact toNat_payload hl

theorem spiRead (index : BitVec 8) (length : BitVec 16) (droptail : BitVec 8) : Statement (.spiRead index length droptail) :=
  fun _ => by
  refine ⟨?_, rfl⟩
  have h1 : (commandWord (.spiRead index length droptail)).extractLsb' 48 8 = index :=
    BitVec.eq_of_getLsbD_eq fun i hi => by interval_cases i <;> simp [commandWord, place]
  have h2 : (commandWord (.spiRead index length droptail)).extractLsb' 40 8 = droptail :=
    BitVec.eq_of_getLsbD_eq fun i hi => by interval_cases i <;> simp [commandWord, place]
  have h3 : (commandWord (.spiRead index length droptail)).extractLsb' 0 16 = length :=
    BitVec.eq_of_getLsbD_eq fun i hi => by interval_cases i <;> simp [commandWord, place]
  show Instr.spiRead _ _ _ = _
  rw [h1, h2, h3]

theorem spiExchange (index : BitVec 8) (dataOut : List Byte) (lengthIn : BitVec 16) (duplex : Bool) (droptail : BitVec 8) :
    Statement (.spiExchange index dataOut lengthIn duplex droptail) := fun hw => by
  have hl : dataOut.length ≤ maxLen := of_decide_eq_true hw
  have h1 : (commandWord (.spiExchange index dataOut lengthIn duplex droptail)).extractLsb' 48 8 = index :=
    BitVec.eq_of_getLsbD_eq fun i hi => by interval_cases i <;> simp [commandWord, place]
  have h2 : (commandWord (.spiExchange index dataOut lengthIn duplex droptail)).extractLsb' 40 8 = droptail :=
    BitVec.eq_of_getLsbD_eq fun i hi => by interval_cases i <;> simp [commandWord, place]
  have h3 : (commandWord (.spiExchange index dataOut lengthIn duplex droptail)).extractLsb' 16 16
      = BitVec.ofNat 16 dataOut.length :=
    BitVec.eq_of_getLsbD_eq fun i hi => by interval_cases i <;> simp [commandWord, place]
  have h4 : (commandWord (.spiExchange index dataOut lengthIn duplex droptail)).extractLsb' 0 16 = lengthIn :=
    BitVec.eq_of_getLsbD_eq fun i hi => by interval_cases i <;> simp [commandWord, place]
  have h5 : (commandWord (.spiExchange index dataOut lengthIn duplex droptail)).getLsbD 32 = duplex := by
    simp [commandWord, place]
  constructor
  · show Instr.spiExchange _ _ _ _ _ = _
    rw [h1, h2, h4, h5]; rfl
  · show BitVec.toNat _ = _
    rw [h3]; exact toNat_payload hl

theorem gpioSetDirection (pinMask outputMask : PinWord) : Statement (.gpioSetDirection pinMask outputMask) := fun _ => by
  refine ⟨?_, rfl⟩
  have h1 : (commandWord (.gpioSetDirection pinMask outputMask)).extractLsb' 16 16 = pinMask :=
    BitVec.eq_of_getLsbD_eq fun i hi => by interval_cases i <;> simp [commandWord, place]
  have h2 : (commandWord (.gpioSetDirection pinMask outputMask)).extractLsb' 0 16 = outputMask :=
    BitVec.eq_of_getLsbD_eq fun i hi => by interval_cases i <;> simp [commandWord, place]
  show Instr.gpioSetDirection _ _ = _
  rw [h1, h2]

theorem gpioWrite (value : PinWord) : Statement (.gpioWrite value) := fun _ => by
  refine ⟨?_, rfl⟩
  have h1 : (commandWord (.gpioWrite value)).extractLsb' 0 16 = value :=
    BitVec.eq_of_getLsbD_eq fun i hi => by interval_cases i <;> simp [commandWord, place]
  show Instr.gpioWrite _ = _
  rw [h1]

theorem gpioRead : Statement .gpioRead := fun _ => ⟨rfl, rfl⟩

end FieldsReadBack

end Sys2Proof.Laws
end

