-- ==== Sys2Proof/Laws/Encoding.lean ====
section
/-! SUPPORT. The opcode map and the bytes of a word: rows do not overlap, a selected row is found, and a word is its bytes. -/

namespace Sys2Proof

/-- Where two rows' masks meet, their patterns differ: no word can be in both (R63). -/
theorem rows_differ : Op.all.Pairwise fun a b => a.pattern &&& b.mask ≠ b.pattern &&& a.mask := by decide

theorem Op.mem_all (o : Op) : o ∈ Op.all := by cases o <;> decide

/-- The row a word is in is the row that is found. -/
theorem selectedOp_of_selects {w : Word} {o : Op} (h : w &&& o.mask = o.pattern) : selectedOp w = some o := by
  have key : ∀ a b : Op, w &&& a.mask = a.pattern → w &&& b.mask = b.pattern → a.pattern &&& b.mask = b.pattern &&& a.mask := by
    intro a b ha hb
    rw [← ha, ← hb, BitVec.and_assoc, BitVec.and_assoc, BitVec.and_comm a.mask]
  unfold selectedOp
  have hs : o.selects w = true := by simp [Op.selects, h]
  cases hf : Op.all.find? (fun o => o.selects w) with
  | none => exact absurd hs (by simpa using List.find?_eq_none.1 hf o o.mem_all)
  | some a =>
    have ha : w &&& a.mask = a.pattern := by simpa [Op.selects] using List.find?_some hf
    by_contra hne
    have hao : a ≠ o := fun e => hne (by rw [e])
    have := key a o ha h
    revert this hao
    cases a <;> cases o <;> decide

/-- A row that is found is the row the word is in. -/
theorem selects_of_selectedOp {w : Word} {o : Op} (h : selectedOp w = some o) : w &&& o.mask = o.pattern := by
  simpa [Op.selects] using List.find?_some h

/-- A byte put below a bit vector, bit by bit. -/
theorem getLsbD_append_byte {n : Nat} (x : BitVec n) (b : Byte) (i : Nat) :
    (x ++ b).getLsbD i = if i < 8 then b.getLsbD i else x.getLsbD (i - 8) := BitVec.getLsbD_append

/-- The word of eight bytes, bit by bit. -/
theorem getLsbD_wordOfBytes (b0 b1 b2 b3 b4 b5 b6 b7 : Byte) (i : Nat) :
    (wordOfBytes b0 b1 b2 b3 b4 b5 b6 b7).getLsbD i
      = if i < 8 then b0.getLsbD i else if i < 16 then b1.getLsbD (i - 8) else if i < 24 then b2.getLsbD (i - 16)
        else if i < 32 then b3.getLsbD (i - 24) else if i < 40 then b4.getLsbD (i - 32) else if i < 48 then b5.getLsbD (i - 40)
        else if i < 56 then b6.getLsbD (i - 48) else b7.getLsbD (i - 56) := by
  have h : (wordOfBytes b0 b1 b2 b3 b4 b5 b6 b7).getLsbD i = if i < 8 then b0.getLsbD i else if i - 8 < 8 then b1.getLsbD (i - 8)
      else if i - 8 - 8 < 8 then b2.getLsbD (i - 8 - 8) else if i - 8 - 8 - 8 < 8 then b3.getLsbD (i - 8 - 8 - 8)
      else if i - 8 - 8 - 8 - 8 < 8 then b4.getLsbD (i - 8 - 8 - 8 - 8) else if i - 8 - 8 - 8 - 8 - 8 < 8 then b5.getLsbD (i - 8 - 8 - 8 - 8 - 8)
      else if i - 8 - 8 - 8 - 8 - 8 - 8 < 8 then b6.getLsbD (i - 8 - 8 - 8 - 8 - 8 - 8) else b7.getLsbD (i - 8 - 8 - 8 - 8 - 8 - 8 - 8) := by
    rw [← getLsbD_append_byte, ← getLsbD_append_byte, ← getLsbD_append_byte, ← getLsbD_append_byte, ← getLsbD_append_byte,
      ← getLsbD_append_byte, ← getLsbD_append_byte]
    rfl
  rw [h]
  simp only [Nat.sub_sub]
  repeat' split
  all_goals first | rfl | omega

/-- The decoder sees the word that was laid out in bytes. -/
theorem decode_wordBytes (w : Word) (tail : List Byte) : decode (wordBytes w ++ tail) = decodeWord w tail := by
  show decodeWord (wordOfBytes _ _ _ _ _ _ _ _) tail = _
  congr 1
  exact Laws.word_ext fun i hi => by rw [getLsbD_wordOfBytes]; interval_cases i <;> simp

/-- Eight bytes are the bytes of the word they make. -/
theorem wordBytes_wordOfBytes (b0 b1 b2 b3 b4 b5 b6 b7 : Byte) :
    wordBytes (wordOfBytes b0 b1 b2 b3 b4 b5 b6 b7) = [b0, b1, b2, b3, b4, b5, b6, b7] := by
  unfold wordBytes
  simp only [List.cons.injEq, and_true]
  refine ⟨?_, ?_, ?_, ?_, ?_, ?_, ?_, ?_⟩ <;>
    exact BitVec.eq_of_getLsbD_eq fun i hi => by
      rw [BitVec.getLsbD_extractLsb', getLsbD_wordOfBytes]; interval_cases i <;> simp

/-! ### A selected word is its instruction's command word -/

theorem modeBits_modeOfBits (b : BitVec 2) : modeBits (modeOfBits b) = b := by revert b; decide

theorem orderBit_orderOfBit (b : Bool) : orderBit (orderOfBit b) = b := by cases b <;> rfl

/-- What a selected word holds under its row's mask. -/
theorem getLsbD_of_selects {w m p : Word} (h : w &&& m = p) (i : Nat) : (w.getLsbD i && m.getLsbD i) = p.getLsbD i := by rw [← h]; simp

/-- A payload as long as a 16-bit field says. -/
theorem ofNat_payload {p : List Byte} {x : BitVec 16} (h : p.length = x.toNat) : BitVec.ofNat 16 p.length = x := by
  rw [h, BitVec.ofNat_toNat, BitVec.setWidth_eq]

theorem commandWord_configure (w : Word) (p : List Byte) (h : w &&& Op.mask .configure = Op.pattern .configure) :
    commandWord (instrOf .configure w p) = w := by
  refine Laws.word_ext fun i hi => ?_
  have hb := getLsbD_of_selects h i
  clear h
  simp only [instrOf, commandWord]
  interval_cases i <;> simp_all [Op.mask, Op.pattern, place]

theorem commandWord_getPort (w : Word) (p : List Byte) (h : w &&& Op.mask .getPort = Op.pattern .getPort) :
    commandWord (instrOf .getPort w p) = w := by
  refine Laws.word_ext fun i hi => ?_
  have hb := getLsbD_of_selects h i
  clear h
  simp only [instrOf, commandWord, modeBits_modeOfBits, orderBit_orderOfBit]
  interval_cases i <;> simp_all [Op.mask, Op.pattern, place]

theorem commandWord_getGpio (w : Word) (p : List Byte) (h : w &&& Op.mask .getGpio = Op.pattern .getGpio) :
    commandWord (instrOf .getGpio w p) = w := by
  refine Laws.word_ext fun i hi => ?_
  have hb := getLsbD_of_selects h i
  clear h
  simp only [instrOf, commandWord]
  interval_cases i <;> simp_all [Op.mask, Op.pattern, place]

theorem commandWord_terminate (w : Word) (p : List Byte) (h : w &&& Op.mask .terminate = Op.pattern .terminate) :
    commandWord (instrOf .terminate w p) = w := by
  refine Laws.word_ext fun i hi => ?_
  have hb := getLsbD_of_selects h i
  clear h
  simp only [instrOf, commandWord]
  interval_cases i <;> simp_all [Op.mask, Op.pattern, place]

theorem commandWord_spiWrite (w : Word) (p : List Byte) (h : w &&& Op.mask .spiWrite = Op.pattern .spiWrite)
    (hp : p.length = payloadLength .spiWrite w) : commandWord (instrOf .spiWrite w p) = w := by
  have hl : BitVec.ofNat 16 p.length = w.extractLsb' 16 16 := ofNat_payload hp
  refine Laws.word_ext fun i hi => ?_
  have hb := getLsbD_of_selects h i
  simp only [instrOf, commandWord]
  rw [hl]
  clear hl hp h
  interval_cases i <;> simp_all [Op.mask, Op.pattern, place]

theorem commandWord_spiRead (w : Word) (p : List Byte) (h : w &&& Op.mask .spiRead = Op.pattern .spiRead) :
    commandWord (instrOf .spiRead w p) = w := by
  refine Laws.word_ext fun i hi => ?_
  have hb := getLsbD_of_selects h i
  clear h
  simp only [instrOf, commandWord]
  interval_cases i <;> simp_all [Op.mask, Op.pattern, place]

theorem commandWord_spiExchange (w : Word) (p : List Byte) (h : w &&& Op.mask .spiExchange = Op.pattern .spiExchange)
    (hp : p.length = payloadLength .spiExchange w) : commandWord (instrOf .spiExchange w p) = w := by
  have hl : BitVec.ofNat 16 p.length = w.extractLsb' 16 16 := ofNat_payload hp
  refine Laws.word_ext fun i hi => ?_
  have hb := getLsbD_of_selects h i
  simp only [instrOf, commandWord]
  rw [hl]
  clear hl hp h
  interval_cases i <;> simp_all [Op.mask, Op.pattern, place]

theorem commandWord_gpioSetDirection (w : Word) (p : List Byte) (h : w &&& Op.mask .gpioSetDirection = Op.pattern .gpioSetDirection) :
    commandWord (instrOf .gpioSetDirection w p) = w := by
  refine Laws.word_ext fun i hi => ?_
  have hb := getLsbD_of_selects h i
  clear h
  simp only [instrOf, commandWord]
  interval_cases i <;> simp_all [Op.mask, Op.pattern, place]

theorem commandWord_gpioWrite (w : Word) (p : List Byte) (h : w &&& Op.mask .gpioWrite = Op.pattern .gpioWrite) :
    commandWord (instrOf .gpioWrite w p) = w := by
  refine Laws.word_ext fun i hi => ?_
  have hb := getLsbD_of_selects h i
  clear h
  simp only [instrOf, commandWord]
  interval_cases i <;> simp_all [Op.mask, Op.pattern, place]

theorem commandWord_gpioRead (w : Word) (p : List Byte) (h : w &&& Op.mask .gpioRead = Op.pattern .gpioRead) :
    commandWord (instrOf .gpioRead w p) = w := by
  refine Laws.word_ext fun i hi => ?_
  have hb := getLsbD_of_selects h i
  clear h
  simp only [instrOf, commandWord]
  interval_cases i <;> simp_all [Op.mask, Op.pattern, place]

/-- Of a selected word, the instruction's command word is the word itself: no bit of a word is dropped. -/
theorem commandWord_instrOf (o : Op) (w : Word) (p : List Byte) (h : w &&& o.mask = o.pattern)
    (hp : p.length = payloadLength o w) : commandWord (instrOf o w p) = w := by
  cases o with
  | configure => exact commandWord_configure w p h
  | getPort => exact commandWord_getPort w p h
  | getGpio => exact commandWord_getGpio w p h
  | terminate => exact commandWord_terminate w p h
  | spiWrite => exact commandWord_spiWrite w p h hp
  | spiRead => exact commandWord_spiRead w p h
  | spiExchange => exact commandWord_spiExchange w p h hp
  | gpioSetDirection => exact commandWord_gpioSetDirection w p h
  | gpioWrite => exact commandWord_gpioWrite w p h
  | gpioRead => exact commandWord_gpioRead w p h

end Sys2Proof
end

