-- ==== Sys2Proof/Laws/Environment.lean ====
section
/-! SUPPORT. The environment's view of a sequence of events, piece by piece. -/

namespace Sys2Proof.Machine

/-- The pair that is known after some events. -/
def lastPins : Option Pins → List PinEvent → Option Pins
  | before, [] => before
  | _, .micro m :: rest => lastPins (some m.pins) rest
  | _, .lost :: rest => lastPins none rest

@[simp] theorem sights_length (before : Option Pins) (events : List PinEvent) :
    (sights before events).length = events.length := by
  induction events generalizing before with
  | nil => rfl
  | cons e rest ih => cases e <;> simp [sights, ih]

theorem sights_append (before : Option Pins) (xs ys : List PinEvent) :
    sights before (xs ++ ys) = sights before xs ++ sights (lastPins before xs) ys := by
  induction xs generalizing before with
  | nil => rfl
  | cons e rest ih => cases e <;> simp [sights, lastPins, ih]

theorem environmentView_append (before : Option Pins) (xs ys : List PinEvent) :
    environmentView before (xs ++ ys) = environmentView before xs ++ environmentView (lastPins before xs) ys := by
  simp [environmentView, sights_append]

@[simp] theorem environmentView_nil (before : Option Pins) : environmentView before [] = [] := rfl

/-- A micro-step that leaves the pair as it finds it is merged with its neighbour. -/
theorem environmentView_same {before : Option Pins} {m : MicroStep} (rest : List PinEvent) (h : before = some m.pins) :
    environmentView before (.micro m :: rest) = environmentView (some m.pins) rest := by
  simp [environmentView, sights, h]

/-- One that changes it is seen. -/
theorem environmentView_change {before : Option Pins} {m : MicroStep} (rest : List PinEvent) (h : before ≠ some m.pins) :
    environmentView before (.micro m :: rest) = .pins m.pins :: environmentView (some m.pins) rest := by
  simp [environmentView, sights, h]

@[simp] theorem environmentView_lost (before : Option Pins) (rest : List PinEvent) :
    environmentView before (.lost :: rest) = .unknown :: environmentView none rest := rfl

end Sys2Proof.Machine
end

