-- ==== Sys2Proof/Laws/State.lean ====
section
/-! SUPPORT. One lemma per field and update: what each of the small state operations writes, and that it leaves the rest. -/

namespace Sys2Proof.Machine

section
variable (m v : PinWord) (s : State)

@[simp] theorem State.drivePins_par : (s.drivePins m v).par = s.par := rfl
@[simp] theorem State.drivePins_isOpen : (s.drivePins m v).isOpen = s.isOpen := rfl
@[simp] theorem State.drivePins_csCount : (s.drivePins m v).csCount = s.csCount := rfl
@[simp] theorem State.drivePins_owner : (s.drivePins m v).owner = s.owner := rfl
@[simp] theorem State.drivePins_gpioClaimed : (s.drivePins m v).gpioClaimed = s.gpioClaimed := rfl
@[simp] theorem State.drivePins_ports : (s.drivePins m v).ports = s.ports := rfl
@[simp] theorem State.drivePins_dir : (s.drivePins m v).dir = s.dir := rfl
@[simp] theorem State.drivePins_out : (s.drivePins m v).out = s.out := rfl
@[simp] theorem State.drivePins_drv : (s.drivePins m v).drv = mergePins m v s.drv := rfl
@[simp] theorem State.drivePins_oe : (s.drivePins m v).oe = s.oe := rfl
@[simp] theorem State.drivePins_activeCs : (s.drivePins m v).activeCs = s.activeCs := rfl
@[simp] theorem State.drivePins_seq : (s.drivePins m v).seq = s.seq := rfl
@[simp] theorem State.drivePins_cmdIn : (s.drivePins m v).cmdIn = s.cmdIn := rfl
@[simp] theorem State.drivePins_rsp : (s.drivePins m v).rsp = s.rsp := rfl
@[simp] theorem State.drivePins_device : (s.drivePins m v).device = s.device := rfl
@[simp] theorem State.drivePins_link : (s.drivePins m v).link = s.link := rfl
@[simp] theorem State.drivePins_envIn : (s.drivePins m v).envIn = s.envIn := rfl
@[simp] theorem State.drivePins_resetIn : (s.drivePins m v).resetIn = s.resetIn := rfl
@[simp] theorem State.drivePins_fresh : (s.drivePins m v).fresh = s.fresh := rfl
@[simp] theorem State.drivePins_faulted : (s.drivePins m v).faulted = s.faulted := rfl
@[simp] theorem State.drivePins_history : (s.drivePins m v).history = s.history := rfl

end

section
variable (p : Nat) (v : Bool) (s : State)

@[simp] theorem State.pinDrive_par : (s.pinDrive p v).par = s.par := rfl
@[simp] theorem State.pinDrive_isOpen : (s.pinDrive p v).isOpen = s.isOpen := rfl
@[simp] theorem State.pinDrive_csCount : (s.pinDrive p v).csCount = s.csCount := rfl
@[simp] theorem State.pinDrive_owner : (s.pinDrive p v).owner = s.owner := rfl
@[simp] theorem State.pinDrive_gpioClaimed : (s.pinDrive p v).gpioClaimed = s.gpioClaimed := rfl
@[simp] theorem State.pinDrive_ports : (s.pinDrive p v).ports = s.ports := rfl
@[simp] theorem State.pinDrive_dir : (s.pinDrive p v).dir = s.dir := rfl
@[simp] theorem State.pinDrive_out : (s.pinDrive p v).out = s.out := rfl
@[simp] theorem State.pinDrive_drv : (s.pinDrive p v).drv = setPin p v s.drv := rfl
@[simp] theorem State.pinDrive_oe : (s.pinDrive p v).oe = s.oe := rfl
@[simp] theorem State.pinDrive_activeCs : (s.pinDrive p v).activeCs = s.activeCs := rfl
@[simp] theorem State.pinDrive_seq : (s.pinDrive p v).seq = s.seq := rfl
@[simp] theorem State.pinDrive_cmdIn : (s.pinDrive p v).cmdIn = s.cmdIn := rfl
@[simp] theorem State.pinDrive_rsp : (s.pinDrive p v).rsp = s.rsp := rfl
@[simp] theorem State.pinDrive_device : (s.pinDrive p v).device = s.device := rfl
@[simp] theorem State.pinDrive_link : (s.pinDrive p v).link = s.link := rfl
@[simp] theorem State.pinDrive_envIn : (s.pinDrive p v).envIn = s.envIn := rfl
@[simp] theorem State.pinDrive_resetIn : (s.pinDrive p v).resetIn = s.resetIn := rfl
@[simp] theorem State.pinDrive_fresh : (s.pinDrive p v).fresh = s.fresh := rfl
@[simp] theorem State.pinDrive_faulted : (s.pinDrive p v).faulted = s.faulted := rfl
@[simp] theorem State.pinDrive_history : (s.pinDrive p v).history = s.history := rfl

end

section
variable (m e : PinWord) (s : State)

@[simp] theorem State.enablePins_par : (s.enablePins m e).par = s.par := rfl
@[simp] theorem State.enablePins_isOpen : (s.enablePins m e).isOpen = s.isOpen := rfl
@[simp] theorem State.enablePins_csCount : (s.enablePins m e).csCount = s.csCount := rfl
@[simp] theorem State.enablePins_owner : (s.enablePins m e).owner = s.owner := rfl
@[simp] theorem State.enablePins_gpioClaimed : (s.enablePins m e).gpioClaimed = s.gpioClaimed := rfl
@[simp] theorem State.enablePins_ports : (s.enablePins m e).ports = s.ports := rfl
@[simp] theorem State.enablePins_dir : (s.enablePins m e).dir = s.dir := rfl
@[simp] theorem State.enablePins_out : (s.enablePins m e).out = s.out := rfl
@[simp] theorem State.enablePins_drv : (s.enablePins m e).drv = s.drv := rfl
@[simp] theorem State.enablePins_oe : (s.enablePins m e).oe = mergePins m e s.oe := rfl
@[simp] theorem State.enablePins_activeCs : (s.enablePins m e).activeCs = s.activeCs := rfl
@[simp] theorem State.enablePins_seq : (s.enablePins m e).seq = s.seq := rfl
@[simp] theorem State.enablePins_cmdIn : (s.enablePins m e).cmdIn = s.cmdIn := rfl
@[simp] theorem State.enablePins_rsp : (s.enablePins m e).rsp = s.rsp := rfl
@[simp] theorem State.enablePins_device : (s.enablePins m e).device = s.device := rfl
@[simp] theorem State.enablePins_link : (s.enablePins m e).link = s.link := rfl
@[simp] theorem State.enablePins_envIn : (s.enablePins m e).envIn = s.envIn := rfl
@[simp] theorem State.enablePins_resetIn : (s.enablePins m e).resetIn = s.resetIn := rfl
@[simp] theorem State.enablePins_fresh : (s.enablePins m e).fresh = s.fresh := rfl
@[simp] theorem State.enablePins_faulted : (s.enablePins m e).faulted = s.faulted := rfl
@[simp] theorem State.enablePins_history : (s.enablePins m e).history = s.history := rfl

end

section
variable (p : Nat) (e : Bool) (s : State)

@[simp] theorem State.pinEnable_par : (s.pinEnable p e).par = s.par := rfl
@[simp] theorem State.pinEnable_isOpen : (s.pinEnable p e).isOpen = s.isOpen := rfl
@[simp] theorem State.pinEnable_csCount : (s.pinEnable p e).csCount = s.csCount := rfl
@[simp] theorem State.pinEnable_owner : (s.pinEnable p e).owner = s.owner := rfl
@[simp] theorem State.pinEnable_gpioClaimed : (s.pinEnable p e).gpioClaimed = s.gpioClaimed := rfl
@[simp] theorem State.pinEnable_ports : (s.pinEnable p e).ports = s.ports := rfl
@[simp] theorem State.pinEnable_dir : (s.pinEnable p e).dir = s.dir := rfl
@[simp] theorem State.pinEnable_out : (s.pinEnable p e).out = s.out := rfl
@[simp] theorem State.pinEnable_drv : (s.pinEnable p e).drv = s.drv := rfl
@[simp] theorem State.pinEnable_oe : (s.pinEnable p e).oe = setPin p e s.oe := rfl
@[simp] theorem State.pinEnable_activeCs : (s.pinEnable p e).activeCs = s.activeCs := rfl
@[simp] theorem State.pinEnable_seq : (s.pinEnable p e).seq = s.seq := rfl
@[simp] theorem State.pinEnable_cmdIn : (s.pinEnable p e).cmdIn = s.cmdIn := rfl
@[simp] theorem State.pinEnable_rsp : (s.pinEnable p e).rsp = s.rsp := rfl
@[simp] theorem State.pinEnable_device : (s.pinEnable p e).device = s.device := rfl
@[simp] theorem State.pinEnable_link : (s.pinEnable p e).link = s.link := rfl
@[simp] theorem State.pinEnable_envIn : (s.pinEnable p e).envIn = s.envIn := rfl
@[simp] theorem State.pinEnable_resetIn : (s.pinEnable p e).resetIn = s.resetIn := rfl
@[simp] theorem State.pinEnable_fresh : (s.pinEnable p e).fresh = s.fresh := rfl
@[simp] theorem State.pinEnable_faulted : (s.pinEnable p e).faulted = s.faulted := rfl
@[simp] theorem State.pinEnable_history : (s.pinEnable p e).history = s.history := rfl

end

section
variable (b : Option Bool) (s : State)

@[simp] theorem State.record_par : (s.record b).par = s.par := rfl
@[simp] theorem State.record_isOpen : (s.record b).isOpen = s.isOpen := rfl
@[simp] theorem State.record_csCount : (s.record b).csCount = s.csCount := rfl
@[simp] theorem State.record_owner : (s.record b).owner = s.owner := rfl
@[simp] theorem State.record_gpioClaimed : (s.record b).gpioClaimed = s.gpioClaimed := rfl
@[simp] theorem State.record_ports : (s.record b).ports = s.ports := rfl
@[simp] theorem State.record_dir : (s.record b).dir = s.dir := rfl
@[simp] theorem State.record_out : (s.record b).out = s.out := rfl
@[simp] theorem State.record_drv : (s.record b).drv = s.drv := rfl
@[simp] theorem State.record_oe : (s.record b).oe = s.oe := rfl
@[simp] theorem State.record_activeCs : (s.record b).activeCs = s.activeCs := rfl
@[simp] theorem State.record_seq : (s.record b).seq = s.seq := rfl
@[simp] theorem State.record_cmdIn : (s.record b).cmdIn = s.cmdIn := rfl
@[simp] theorem State.record_rsp : (s.record b).rsp = s.rsp := rfl
@[simp] theorem State.record_device : (s.record b).device = s.device := rfl
@[simp] theorem State.record_link : (s.record b).link = s.link := rfl
@[simp] theorem State.record_envIn : (s.record b).envIn = s.envIn := rfl
@[simp] theorem State.record_resetIn : (s.record b).resetIn = s.resetIn := rfl
@[simp] theorem State.record_fresh : (s.record b).fresh = s.fresh := rfl
@[simp] theorem State.record_faulted : (s.record b).faulted = s.faulted := rfl
@[simp] theorem State.record_history : (s.record b).history = s.history ++ [.micro ⟨s.drv, s.oe, s.activeCs, s.seq, b⟩] := rfl

end

section
variable (r : Response) (s : State)

@[simp] theorem State.answer_par : (s.answer r).par = s.par := rfl
@[simp] theorem State.answer_isOpen : (s.answer r).isOpen = s.isOpen := rfl
@[simp] theorem State.answer_csCount : (s.answer r).csCount = s.csCount := rfl
@[simp] theorem State.answer_owner : (s.answer r).owner = s.owner := rfl
@[simp] theorem State.answer_gpioClaimed : (s.answer r).gpioClaimed = s.gpioClaimed := rfl
@[simp] theorem State.answer_ports : (s.answer r).ports = s.ports := rfl
@[simp] theorem State.answer_dir : (s.answer r).dir = s.dir := rfl
@[simp] theorem State.answer_out : (s.answer r).out = s.out := rfl
@[simp] theorem State.answer_drv : (s.answer r).drv = s.drv := rfl
@[simp] theorem State.answer_oe : (s.answer r).oe = s.oe := rfl
@[simp] theorem State.answer_activeCs : (s.answer r).activeCs = s.activeCs := rfl
@[simp] theorem State.answer_seq : (s.answer r).seq = s.seq := rfl
@[simp] theorem State.answer_cmdIn : (s.answer r).cmdIn = s.cmdIn := rfl
@[simp] theorem State.answer_rsp : (s.answer r).rsp = some r := rfl
@[simp] theorem State.answer_device : (s.answer r).device = s.device := rfl
@[simp] theorem State.answer_link : (s.answer r).link = s.link := rfl
@[simp] theorem State.answer_envIn : (s.answer r).envIn = s.envIn := rfl
@[simp] theorem State.answer_resetIn : (s.answer r).resetIn = s.resetIn := rfl
@[simp] theorem State.answer_fresh : (s.answer r).fresh = s.fresh := rfl
@[simp] theorem State.answer_faulted : (s.answer r).faulted = s.faulted := rfl
@[simp] theorem State.answer_history : (s.answer r).history = s.history := rfl

end

section
variable (v : BitVec 16) (d : List Byte) (s : State)

@[simp] theorem State.answerOk_par : (s.answerOk v d).par = s.par := rfl
@[simp] theorem State.answerOk_isOpen : (s.answerOk v d).isOpen = s.isOpen := rfl
@[simp] theorem State.answerOk_csCount : (s.answerOk v d).csCount = s.csCount := rfl
@[simp] theorem State.answerOk_owner : (s.answerOk v d).owner = s.owner := rfl
@[simp] theorem State.answerOk_gpioClaimed : (s.answerOk v d).gpioClaimed = s.gpioClaimed := rfl
@[simp] theorem State.answerOk_ports : (s.answerOk v d).ports = s.ports := rfl
@[simp] theorem State.answerOk_dir : (s.answerOk v d).dir = s.dir := rfl
@[simp] theorem State.answerOk_out : (s.answerOk v d).out = s.out := rfl
@[simp] theorem State.answerOk_drv : (s.answerOk v d).drv = s.drv := rfl
@[simp] theorem State.answerOk_oe : (s.answerOk v d).oe = s.oe := rfl
@[simp] theorem State.answerOk_activeCs : (s.answerOk v d).activeCs = s.activeCs := rfl
@[simp] theorem State.answerOk_seq : (s.answerOk v d).seq = s.seq := rfl
@[simp] theorem State.answerOk_cmdIn : (s.answerOk v d).cmdIn = s.cmdIn := rfl
@[simp] theorem State.answerOk_rsp : (s.answerOk v d).rsp = some (okResponse v d) := rfl
@[simp] theorem State.answerOk_device : (s.answerOk v d).device = s.device := rfl
@[simp] theorem State.answerOk_link : (s.answerOk v d).link = s.link := rfl
@[simp] theorem State.answerOk_envIn : (s.answerOk v d).envIn = s.envIn := rfl
@[simp] theorem State.answerOk_resetIn : (s.answerOk v d).resetIn = s.resetIn := rfl
@[simp] theorem State.answerOk_fresh : (s.answerOk v d).fresh = s.fresh := rfl
@[simp] theorem State.answerOk_faulted : (s.answerOk v d).faulted = s.faulted := rfl
@[simp] theorem State.answerOk_history : (s.answerOk v d).history = s.history := rfl

end

section
variable (e : ErrorClass) (s : State)

@[simp] theorem State.raise_par : (s.raise e).par = s.par := rfl
@[simp] theorem State.raise_isOpen : (s.raise e).isOpen = s.isOpen := rfl
@[simp] theorem State.raise_csCount : (s.raise e).csCount = s.csCount := rfl
@[simp] theorem State.raise_owner : (s.raise e).owner = s.owner := rfl
@[simp] theorem State.raise_gpioClaimed : (s.raise e).gpioClaimed = s.gpioClaimed := rfl
@[simp] theorem State.raise_ports : (s.raise e).ports = s.ports := rfl
@[simp] theorem State.raise_dir : (s.raise e).dir = s.dir := rfl
@[simp] theorem State.raise_out : (s.raise e).out = s.out := rfl
@[simp] theorem State.raise_drv : (s.raise e).drv = s.drv := rfl
@[simp] theorem State.raise_oe : (s.raise e).oe = s.oe := rfl
@[simp] theorem State.raise_activeCs : (s.raise e).activeCs = s.activeCs := rfl
@[simp] theorem State.raise_seq : (s.raise e).seq = s.seq := rfl
@[simp] theorem State.raise_cmdIn : (s.raise e).cmdIn = s.cmdIn := rfl
@[simp] theorem State.raise_rsp : (s.raise e).rsp = some (errorResponse e) := rfl
@[simp] theorem State.raise_device : (s.raise e).device = s.device := rfl
@[simp] theorem State.raise_link : (s.raise e).link = s.link := rfl
@[simp] theorem State.raise_envIn : (s.raise e).envIn = s.envIn := rfl
@[simp] theorem State.raise_resetIn : (s.raise e).resetIn = s.resetIn := rfl
@[simp] theorem State.raise_fresh : (s.raise e).fresh = s.fresh := rfl
@[simp] theorem State.raise_faulted : (s.raise e).faulted = s.faulted := rfl
@[simp] theorem State.raise_history : (s.raise e).history = s.history := rfl

end

section
variable (s : State)

@[simp] theorem State.pulseDone_par : s.pulseDone.par = s.par := rfl
@[simp] theorem State.pulseDone_isOpen : s.pulseDone.isOpen = s.isOpen := rfl
@[simp] theorem State.pulseDone_csCount : s.pulseDone.csCount = s.csCount := rfl
@[simp] theorem State.pulseDone_owner : s.pulseDone.owner = s.owner := rfl
@[simp] theorem State.pulseDone_gpioClaimed : s.pulseDone.gpioClaimed = s.gpioClaimed := rfl
@[simp] theorem State.pulseDone_ports : s.pulseDone.ports = s.ports := rfl
@[simp] theorem State.pulseDone_dir : s.pulseDone.dir = s.dir := rfl
@[simp] theorem State.pulseDone_out : s.pulseDone.out = s.out := rfl
@[simp] theorem State.pulseDone_drv : s.pulseDone.drv = s.drv := rfl
@[simp] theorem State.pulseDone_oe : s.pulseDone.oe = s.oe := rfl
@[simp] theorem State.pulseDone_activeCs : s.pulseDone.activeCs = s.activeCs := rfl
@[simp] theorem State.pulseDone_seq : s.pulseDone.seq = ⟨s.seq.st, s.seq.port, s.seq.n, s.seq.j + 1⟩ := rfl
@[simp] theorem State.pulseDone_cmdIn : s.pulseDone.cmdIn = s.cmdIn := rfl
@[simp] theorem State.pulseDone_rsp : s.pulseDone.rsp = s.rsp := rfl
@[simp] theorem State.pulseDone_device : s.pulseDone.device = s.device := rfl
@[simp] theorem State.pulseDone_link : s.pulseDone.link = s.link := rfl
@[simp] theorem State.pulseDone_envIn : s.pulseDone.envIn = s.envIn := rfl
@[simp] theorem State.pulseDone_resetIn : s.pulseDone.resetIn = s.resetIn := rfl
@[simp] theorem State.pulseDone_fresh : s.pulseDone.fresh = s.fresh := rfl
@[simp] theorem State.pulseDone_faulted : s.pulseDone.faulted = s.faulted := rfl
@[simp] theorem State.pulseDone_history : s.pulseDone.history = s.history := rfl

end

section
variable (s : State)

@[simp] theorem State.envAsked_par : s.envAsked.par = s.par := by unfold State.envAsked; split <;> rfl
@[simp] theorem State.envAsked_isOpen : s.envAsked.isOpen = s.isOpen := by unfold State.envAsked; split <;> rfl
@[simp] theorem State.envAsked_csCount : s.envAsked.csCount = s.csCount := by unfold State.envAsked; split <;> rfl
@[simp] theorem State.envAsked_owner : s.envAsked.owner = s.owner := by unfold State.envAsked; split <;> rfl
@[simp] theorem State.envAsked_gpioClaimed : s.envAsked.gpioClaimed = s.gpioClaimed := by unfold State.envAsked; split <;> rfl
@[simp] theorem State.envAsked_ports : s.envAsked.ports = s.ports := by unfold State.envAsked; split <;> rfl
@[simp] theorem State.envAsked_dir : s.envAsked.dir = s.dir := by unfold State.envAsked; split <;> rfl
@[simp] theorem State.envAsked_out : s.envAsked.out = s.out := by unfold State.envAsked; split <;> rfl
@[simp] theorem State.envAsked_drv : s.envAsked.drv = s.drv := by unfold State.envAsked; split <;> rfl
@[simp] theorem State.envAsked_oe : s.envAsked.oe = s.oe := by unfold State.envAsked; split <;> rfl
@[simp] theorem State.envAsked_activeCs : s.envAsked.activeCs = s.activeCs := by unfold State.envAsked; split <;> rfl
@[simp] theorem State.envAsked_seq : s.envAsked.seq = s.seq := by unfold State.envAsked; split <;> rfl
@[simp] theorem State.envAsked_cmdIn : s.envAsked.cmdIn = s.cmdIn := by unfold State.envAsked; split <;> rfl
@[simp] theorem State.envAsked_rsp : s.envAsked.rsp = s.rsp := by unfold State.envAsked; split <;> rfl
@[simp] theorem State.envAsked_device : s.envAsked.device = s.device := by unfold State.envAsked; split <;> rfl
@[simp] theorem State.envAsked_link : s.envAsked.link = s.link := by unfold State.envAsked; split <;> rfl
@[simp] theorem State.envAsked_resetIn : s.envAsked.resetIn = s.resetIn := by unfold State.envAsked; split <;> rfl
@[simp] theorem State.envAsked_faulted : s.envAsked.faulted = s.faulted := by unfold State.envAsked; split <;> rfl
@[simp] theorem State.envAsked_history : s.envAsked.history = s.history := by unfold State.envAsked; split <;> rfl
@[simp] theorem State.envAsked_envIn : s.envAsked.envIn = s.envIn.tail := by unfold State.envAsked; split <;> simp_all
@[simp] theorem State.envAsked_fresh : s.envAsked.fresh = s.fresh + (1 - s.envIn.length) := by
  unfold State.envAsked; split <;> simp_all

end

section
variable (m : PinWord) (s : State)

@[simp] theorem State.samplePins_par : (s.samplePins m).2.par = s.par := by unfold State.samplePins; split <;> simp
@[simp] theorem State.samplePins_isOpen : (s.samplePins m).2.isOpen = s.isOpen := by unfold State.samplePins; split <;> simp
@[simp] theorem State.samplePins_csCount : (s.samplePins m).2.csCount = s.csCount := by unfold State.samplePins; split <;> simp
@[simp] theorem State.samplePins_owner : (s.samplePins m).2.owner = s.owner := by unfold State.samplePins; split <;> simp
@[simp] theorem State.samplePins_gpioClaimed : (s.samplePins m).2.gpioClaimed = s.gpioClaimed := by unfold State.samplePins; split <;> simp
@[simp] theorem State.samplePins_ports : (s.samplePins m).2.ports = s.ports := by unfold State.samplePins; split <;> simp
@[simp] theorem State.samplePins_dir : (s.samplePins m).2.dir = s.dir := by unfold State.samplePins; split <;> simp
@[simp] theorem State.samplePins_out : (s.samplePins m).2.out = s.out := by unfold State.samplePins; split <;> simp
@[simp] theorem State.samplePins_drv : (s.samplePins m).2.drv = s.drv := by unfold State.samplePins; split <;> simp
@[simp] theorem State.samplePins_oe : (s.samplePins m).2.oe = s.oe := by unfold State.samplePins; split <;> simp
@[simp] theorem State.samplePins_activeCs : (s.samplePins m).2.activeCs = s.activeCs := by unfold State.samplePins; split <;> simp
@[simp] theorem State.samplePins_seq : (s.samplePins m).2.seq = s.seq := by unfold State.samplePins; split <;> simp
@[simp] theorem State.samplePins_cmdIn : (s.samplePins m).2.cmdIn = s.cmdIn := by unfold State.samplePins; split <;> simp
@[simp] theorem State.samplePins_rsp : (s.samplePins m).2.rsp = s.rsp := by unfold State.samplePins; split <;> simp
@[simp] theorem State.samplePins_device : (s.samplePins m).2.device = s.device := by unfold State.samplePins; split <;> simp
@[simp] theorem State.samplePins_link : (s.samplePins m).2.link = s.link := by unfold State.samplePins; split <;> simp
@[simp] theorem State.samplePins_resetIn : (s.samplePins m).2.resetIn = s.resetIn := by unfold State.samplePins; split <;> simp
@[simp] theorem State.samplePins_faulted : (s.samplePins m).2.faulted = s.faulted := by unfold State.samplePins; split <;> simp
@[simp] theorem State.samplePins_history : (s.samplePins m).2.history = s.history := by unfold State.samplePins; split <;> simp

end

section
variable (p : Nat) (s : State)

@[simp] theorem State.pinSample_par : (s.pinSample p).2.par = s.par := by simp [State.pinSample]
@[simp] theorem State.pinSample_isOpen : (s.pinSample p).2.isOpen = s.isOpen := by simp [State.pinSample]
@[simp] theorem State.pinSample_csCount : (s.pinSample p).2.csCount = s.csCount := by simp [State.pinSample]
@[simp] theorem State.pinSample_owner : (s.pinSample p).2.owner = s.owner := by simp [State.pinSample]
@[simp] theorem State.pinSample_gpioClaimed : (s.pinSample p).2.gpioClaimed = s.gpioClaimed := by simp [State.pinSample]
@[simp] theorem State.pinSample_ports : (s.pinSample p).2.ports = s.ports := by simp [State.pinSample]
@[simp] theorem State.pinSample_dir : (s.pinSample p).2.dir = s.dir := by simp [State.pinSample]
@[simp] theorem State.pinSample_out : (s.pinSample p).2.out = s.out := by simp [State.pinSample]
@[simp] theorem State.pinSample_drv : (s.pinSample p).2.drv = s.drv := by simp [State.pinSample]
@[simp] theorem State.pinSample_oe : (s.pinSample p).2.oe = s.oe := by simp [State.pinSample]
@[simp] theorem State.pinSample_activeCs : (s.pinSample p).2.activeCs = s.activeCs := by simp [State.pinSample]
@[simp] theorem State.pinSample_seq : (s.pinSample p).2.seq = s.seq := by simp [State.pinSample]
@[simp] theorem State.pinSample_cmdIn : (s.pinSample p).2.cmdIn = s.cmdIn := by simp [State.pinSample]
@[simp] theorem State.pinSample_rsp : (s.pinSample p).2.rsp = s.rsp := by simp [State.pinSample]
@[simp] theorem State.pinSample_device : (s.pinSample p).2.device = s.device := by simp [State.pinSample]
@[simp] theorem State.pinSample_link : (s.pinSample p).2.link = s.link := by simp [State.pinSample]
@[simp] theorem State.pinSample_resetIn : (s.pinSample p).2.resetIn = s.resetIn := by simp [State.pinSample]
@[simp] theorem State.pinSample_faulted : (s.pinSample p).2.faulted = s.faulted := by simp [State.pinSample]
@[simp] theorem State.pinSample_history : (s.pinSample p).2.history = s.history := by simp [State.pinSample]

end

section
variable (s : State)

@[simp] theorem State.linkAsked_par : s.linkAsked.par = s.par := rfl
@[simp] theorem State.linkAsked_isOpen : s.linkAsked.isOpen = s.isOpen := rfl
@[simp] theorem State.linkAsked_csCount : s.linkAsked.csCount = s.csCount := rfl
@[simp] theorem State.linkAsked_owner : s.linkAsked.owner = s.owner := rfl
@[simp] theorem State.linkAsked_gpioClaimed : s.linkAsked.gpioClaimed = s.gpioClaimed := rfl
@[simp] theorem State.linkAsked_ports : s.linkAsked.ports = s.ports := rfl
@[simp] theorem State.linkAsked_dir : s.linkAsked.dir = s.dir := rfl
@[simp] theorem State.linkAsked_out : s.linkAsked.out = s.out := rfl
@[simp] theorem State.linkAsked_drv : s.linkAsked.drv = s.drv := rfl
@[simp] theorem State.linkAsked_oe : s.linkAsked.oe = s.oe := rfl
@[simp] theorem State.linkAsked_activeCs : s.linkAsked.activeCs = s.activeCs := rfl
@[simp] theorem State.linkAsked_seq : s.linkAsked.seq = s.seq := rfl
@[simp] theorem State.linkAsked_cmdIn : s.linkAsked.cmdIn = s.cmdIn := rfl
@[simp] theorem State.linkAsked_rsp : s.linkAsked.rsp = s.rsp := rfl
@[simp] theorem State.linkAsked_device : s.linkAsked.device = s.device := rfl
@[simp] theorem State.linkAsked_link : s.linkAsked.link = s.link.asked := rfl
@[simp] theorem State.linkAsked_envIn : s.linkAsked.envIn = s.envIn := rfl
@[simp] theorem State.linkAsked_resetIn : s.linkAsked.resetIn = s.resetIn := rfl
@[simp] theorem State.linkAsked_fresh : s.linkAsked.fresh = s.fresh := rfl
@[simp] theorem State.linkAsked_faulted : s.linkAsked.faulted = s.faulted := rfl
@[simp] theorem State.linkAsked_history : s.linkAsked.history = s.history := rfl

end

section
variable (s : State)

@[simp] theorem State.deviceAsked_par : s.deviceAsked.par = s.par := rfl
@[simp] theorem State.deviceAsked_isOpen : s.deviceAsked.isOpen = s.isOpen := rfl
@[simp] theorem State.deviceAsked_csCount : s.deviceAsked.csCount = s.csCount := rfl
@[simp] theorem State.deviceAsked_owner : s.deviceAsked.owner = s.owner := rfl
@[simp] theorem State.deviceAsked_gpioClaimed : s.deviceAsked.gpioClaimed = s.gpioClaimed := rfl
@[simp] theorem State.deviceAsked_ports : s.deviceAsked.ports = s.ports := rfl
@[simp] theorem State.deviceAsked_dir : s.deviceAsked.dir = s.dir := rfl
@[simp] theorem State.deviceAsked_out : s.deviceAsked.out = s.out := rfl
@[simp] theorem State.deviceAsked_drv : s.deviceAsked.drv = s.drv := rfl
@[simp] theorem State.deviceAsked_oe : s.deviceAsked.oe = s.oe := rfl
@[simp] theorem State.deviceAsked_activeCs : s.deviceAsked.activeCs = s.activeCs := rfl
@[simp] theorem State.deviceAsked_seq : s.deviceAsked.seq = s.seq := rfl
@[simp] theorem State.deviceAsked_cmdIn : s.deviceAsked.cmdIn = s.cmdIn := rfl
@[simp] theorem State.deviceAsked_rsp : s.deviceAsked.rsp = s.rsp := rfl
@[simp] theorem State.deviceAsked_device : s.deviceAsked.device = s.device.asked := rfl
@[simp] theorem State.deviceAsked_link : s.deviceAsked.link = s.link := rfl
@[simp] theorem State.deviceAsked_envIn : s.deviceAsked.envIn = s.envIn := rfl
@[simp] theorem State.deviceAsked_resetIn : s.deviceAsked.resetIn = s.resetIn := rfl
@[simp] theorem State.deviceAsked_fresh : s.deviceAsked.fresh = s.fresh := rfl
@[simp] theorem State.deviceAsked_faulted : s.deviceAsked.faulted = s.faulted := rfl
@[simp] theorem State.deviceAsked_history : s.deviceAsked.history = s.history := rfl

end

/-- What the ledger and the port table show depends on their fields alone. -/
@[simp] theorem State.linkAsked_ownerOf (s : State) (p : Nat) : s.linkAsked.ownerOf p = s.ownerOf p := rfl
@[simp] theorem State.linkAsked_portAt (s : State) (k : Nat) : s.linkAsked.portAt k = s.portAt k := rfl
@[simp] theorem State.linkAsked_gpioClaim (s : State) : s.linkAsked.gpioClaim = s.gpioClaim := rfl
@[simp] theorem State.linkAsked_spiClaim (s : State) : s.linkAsked.spiClaim = s.spiClaim := rfl
@[simp] theorem State.linkAsked_envNow (s : State) : s.linkAsked.envNow = s.envNow := rfl

/-- What asking the link does: it fails, or the operation runs. -/
theorem State.askLink_down {s : State} (failure body : State → State) (h : s.linkOk = false) :
    s.askLink failure body = failure s.linkAsked := by simp [State.askLink, h]

theorem State.askLink_up {s : State} (failure body : State → State) (h : s.linkOk = true) :
    s.askLink failure body = body s.linkAsked := by simp [State.askLink, h]

end Sys2Proof.Machine
end

