-- ==== Sys2Proof/Laws/Pins.lean ====
section
/-! SUPPORT. Pin words bit by bit: what each operation on pin words says at one pin. -/

namespace Sys2Proof.Machine

@[simp] theorem getLsbD_pinBit (p q : Nat) : (pinBit p).getLsbD q = decide (q = p ∧ p < 16) := by
  simp only [pinBit, BitVec.getLsbD_shiftLeft, BitVec.getLsbD_one]
  by_cases h : q = p <;> by_cases h16 : p < 16 <;> simp [h, h16] <;> omega

@[simp] theorem getLsbD_pinFill (v : Bool) (q : Nat) : (pinFill v).getLsbD q = (decide (q < 16) && v) := by
  by_cases h : q < 16
  · interval_cases q <;> cases v <;> rfl
  · simp [h, BitVec.getLsbD_of_ge (pinFill v) q (by omega)]

@[simp] theorem getLsbD_mergePins (m new old : PinWord) (q : Nat) :
    (mergePins m new old).getLsbD q = if m.getLsbD q then new.getLsbD q else old.getLsbD q := by
  by_cases h : q < 16
  · simp only [mergePins, BitVec.getLsbD_or, BitVec.getLsbD_and, BitVec.getLsbD_not, h, decide_true, Bool.true_and]
    cases m.getLsbD q <;> simp
  · simp [BitVec.getLsbD_of_ge _ q (show 16 ≤ q by omega)]

@[simp] theorem getLsbD_setPin (p : Nat) (v : Bool) (x : PinWord) (q : Nat) :
    (setPin p v x).getLsbD q = if q = p ∧ p < 16 then v else x.getLsbD q := by
  simp only [setPin, getLsbD_mergePins, getLsbD_pinBit, getLsbD_pinFill, decide_eq_true_eq]
  split
  · have : q < 16 := by omega
    simp [this]
  · rfl

theorem getLsbD_pinsWhere (f : Nat → Bool) (n q : Nat) (hn : n ≤ 16) :
    (pinsWhere f n).getLsbD q = (decide (q < n) && f q) := by
  induction n with
  | zero => simp [pinsWhere]
  | succ n ih =>
    have ih := ih (by omega)
    unfold pinsWhere
    split
    · next h =>
      simp only [BitVec.getLsbD_or, ih, getLsbD_pinBit]
      by_cases hq : q = n
      · subst hq; simp [h]; omega
      · have : (q < n + 1) = (q < n) := by simp; omega
        simp [hq, this]
    · next h =>
      rw [ih]
      by_cases hq : q = n
      · subst hq; simp [h]
      · have : (q < n + 1) = (q < n) := by simp; omega
        simp [this]

/-- Two pin words with the same level at each of the sixteen positions are one. -/
theorem pinWord_ext {x y : PinWord} (h : ∀ p, p < 16 → x.getLsbD p = y.getLsbD p) : x = y :=
  BitVec.eq_of_getLsbD_eq fun i hi => h i hi

/-- `a ⊆ b` on masks (R8), pin by pin. -/
theorem subset_iff (a b : PinWord) : a &&& ~~~b = 0#16 ↔ ∀ p, a.getLsbD p = true → b.getLsbD p = true := by
  constructor
  · intro h p hp
    have hlt : p < 16 := BitVec.lt_of_getLsbD hp
    have := congrArg (fun z : PinWord => z.getLsbD p) h
    simpa [hp, hlt] using this
  · intro h
    refine pinWord_ext fun p hp => ?_
    rw [BitVec.getLsbD_and, BitVec.getLsbD_not, BitVec.getLsbD_zero]
    have := h p
    revert this
    cases a.getLsbD p <;> cases b.getLsbD p <;> decide +revert

/-- `PinSample(p)` (R46): the driven level where the block drives the pin, else the environment's answer. -/
theorem State.pinSample_fst (p : Nat) (hp : p < 16) (s : State) :
    (s.pinSample p).1 = if s.oe.getLsbD p then s.drv.getLsbD p else s.envNow.getLsbD p := by
  have key : (pinBit p &&& ~~~s.oe = 0#16) ↔ s.oe.getLsbD p = true := by
    rw [subset_iff]
    constructor
    · intro h; exact h p (by simp [hp])
    · intro h q hq; simp at hq; exact hq.1 ▸ h
  unfold State.pinSample State.samplePins
  split
  · next h =>
    have hb : (pinBit p).getLsbD p = true := by simp [hp, -BitVec.getLsbD_eq_getElem]
    simp only [BitVec.getLsbD_and, key.1 h, hb, Bool.and_true, if_true]
  · next h =>
    have h' : s.oe.getLsbD p = false := by simpa using mt key.2 h
    have hb : (pinBit p).getLsbD p = true := by simp [hp, -BitVec.getLsbD_eq_getElem]
    simp only [BitVec.getLsbD_and, pinLevels, getLsbD_mergePins, h', hb, Bool.and_true, Bool.false_eq_true, if_false]

/-- A pin that is not driven is asked of the environment. -/
theorem State.pinSample_snd_of_undriven (p : Nat) (s : State) (hp : p < 16) (h : s.oe.getLsbD p = false) :
    (s.pinSample p).2 = s.envAsked := by
  have : ¬ (pinBit p &&& ~~~s.oe = 0#16) := by
    rw [subset_iff]
    intro h'
    have := h' p (by simp [hp])
    simp [h] at this
  simp [State.pinSample, State.samplePins, this]

/-- A read of a mask at one pin (R166): the mask's pins have their levels, the rest is 0. -/
theorem State.samplePins_getLsbD (m : PinWord) (s : State) (p : Nat) :
    (s.samplePins m).1.getLsbD p
      = (m.getLsbD p && if s.oe.getLsbD p then s.drv.getLsbD p else s.envNow.getLsbD p) := by
  unfold State.samplePins
  split
  · next h =>
    have := (subset_iff _ _).1 h p
    cases hm : m.getLsbD p <;> simp_all
  · simp [pinLevels, Bool.and_comm]

/-- Asking the link changes no level that is read. -/
@[simp] theorem State.linkAsked_samplePins_fst (m : PinWord) (s : State) :
    (s.linkAsked.samplePins m).1 = (s.samplePins m).1 := by
  refine pinWord_ext fun p _ => ?_
  rw [State.samplePins_getLsbD, State.samplePins_getLsbD]; rfl

end Sys2Proof.Machine
end

