-- ==== Sys2Proof/Laws/Sequencer.lean ====
section
/-! SUPPORT. The sequencer: what a pulse and a train of pulses do, field by field, and the closed form of `XFER`. -/

namespace Sys2Proof.Machine

/-! ### The parameters -/

/-- R6's constraints as one conjunction. -/
theorem Params.valid_iff (c : Params) : c.valid = true ↔
    (4 ≤ c.w ∧ c.w ≤ 16 ∧ c.sckPin < c.w ∧ c.mosiPin < c.w ∧ c.misoPin < c.w
    ∧ c.sckPin ≠ c.mosiPin ∧ c.sckPin ≠ c.misoPin ∧ c.mosiPin ≠ c.misoPin
    ∧ c.csBase + c.csMax ≤ c.w ∧ 1 ≤ c.csMax ∧ c.csMax ≤ c.w - 3
    ∧ ¬ (c.csBase ≤ c.sckPin ∧ c.sckPin < c.csBase + c.csMax)
    ∧ ¬ (c.csBase ≤ c.mosiPin ∧ c.mosiPin < c.csBase + c.csMax)
    ∧ ¬ (c.csBase ≤ c.misoPin ∧ c.misoPin < c.csBase + c.csMax)
    ∧ 1 ≤ c.fMax ∧ c.fMax ≤ 2 ^ 32 - 1) := decide_eq_true_iff

/-- The pins of a transfer exist and are three different pins. -/
structure BusPins (c : Params) (k : Nat) : Prop where
  sckLt : c.sckPin < 16
  mosiLt : c.mosiPin < 16
  misoLt : c.misoPin < 16
  csLt : c.csPin k < 16
  sckMosi : c.sckPin ≠ c.mosiPin
  sckCs : c.sckPin ≠ c.csPin k
  mosiCs : c.mosiPin ≠ c.csPin k
  misoSck : c.misoPin ≠ c.sckPin
  misoMosi : c.misoPin ≠ c.mosiPin
  misoCs : c.misoPin ≠ c.csPin k

theorem Params.busPins {c : Params} (h : c.valid = true) {k : Nat} (hk : k < c.csMax) : BusPins c k := by
  have := (Params.valid_iff c).1 h
  constructor <;> unfold Params.csPin at * <;> omega

/-! ### Questions to the environment -/

@[simp] theorem State.envNow_congr (s t : State) (he : t.envIn = s.envIn) (hf : t.fresh = s.fresh) : t.envNow = s.envNow := by
  unfold State.envNow; rw [he, hf]

theorem envAnswers_succ (n : Nat) (s : State) :
    envAnswers (n + 1) s.envIn s.fresh = s.envNow :: envAnswers n s.envAsked.envIn s.envAsked.fresh := by
  unfold State.envNow State.envAsked
  cases s.envIn <;> rfl

@[simp] theorem envAnswers_length (n : Nat) (ws : List PinWord) (f : Nat) : (envAnswers n ws f).length = n := by
  induction n generalizing ws f with
  | zero => rfl
  | succ n ih => cases ws <;> simp [envAnswers, ih]

/-! ### One pulse -/

section
variable (m : Mode) (b : Bool) (s : State)

@[simp] theorem pulse_par : (pulse m b s).2.par = s.par := by
  cases m <;> simp [pulse, cpha, State.sampleMiso]
@[simp] theorem pulse_isOpen : (pulse m b s).2.isOpen = s.isOpen := by
  cases m <;> simp [pulse, cpha, State.sampleMiso]
@[simp] theorem pulse_csCount : (pulse m b s).2.csCount = s.csCount := by
  cases m <;> simp [pulse, cpha, State.sampleMiso]
@[simp] theorem pulse_owner : (pulse m b s).2.owner = s.owner := by
  cases m <;> simp [pulse, cpha, State.sampleMiso]
@[simp] theorem pulse_gpioClaimed : (pulse m b s).2.gpioClaimed = s.gpioClaimed := by
  cases m <;> simp [pulse, cpha, State.sampleMiso]
@[simp] theorem pulse_ports : (pulse m b s).2.ports = s.ports := by
  cases m <;> simp [pulse, cpha, State.sampleMiso]
@[simp] theorem pulse_dir : (pulse m b s).2.dir = s.dir := by
  cases m <;> simp [pulse, cpha, State.sampleMiso]
@[simp] theorem pulse_out : (pulse m b s).2.out = s.out := by
  cases m <;> simp [pulse, cpha, State.sampleMiso]
@[simp] theorem pulse_oe : (pulse m b s).2.oe = s.oe := by
  cases m <;> simp [pulse, cpha, State.sampleMiso]
@[simp] theorem pulse_activeCs : (pulse m b s).2.activeCs = s.activeCs := by
  cases m <;> simp [pulse, cpha, State.sampleMiso]
@[simp] theorem pulse_cmdIn : (pulse m b s).2.cmdIn = s.cmdIn := by
  cases m <;> simp [pulse, cpha, State.sampleMiso]
@[simp] theorem pulse_rsp : (pulse m b s).2.rsp = s.rsp := by
  cases m <;> simp [pulse, cpha, State.sampleMiso]
@[simp] theorem pulse_device : (pulse m b s).2.device = s.device := by
  cases m <;> simp [pulse, cpha, State.sampleMiso]
@[simp] theorem pulse_link : (pulse m b s).2.link = s.link := by
  cases m <;> simp [pulse, cpha, State.sampleMiso]
@[simp] theorem pulse_resetIn : (pulse m b s).2.resetIn = s.resetIn := by
  cases m <;> simp [pulse, cpha, State.sampleMiso]
@[simp] theorem pulse_faulted : (pulse m b s).2.faulted = s.faulted := by
  cases m <;> simp [pulse, cpha, State.sampleMiso]

@[simp] theorem pulse_seq : (pulse m b s).2.seq = ⟨s.seq.st, s.seq.port, s.seq.n, s.seq.j + 1⟩ := by
  cases m <;> simp [pulse, cpha, State.sampleMiso]

end

/-- The latches after a pulse: the clock at its idle level, data out at the bit, every other pin as before. -/
theorem pulse_drv (m : Mode) (b : Bool) (s : State) (p : Nat) (h1 : s.par.sckPin < 16) (h2 : s.par.mosiPin < 16) :
    (pulse m b s).2.drv.getLsbD p
      = if p = s.par.sckPin then cpol m else if p = s.par.mosiPin then b else s.drv.getLsbD p := by
  cases m <;> simp [pulse, cpha, State.sampleMiso, h1, h2] <;> split <;> simp_all

/-- The sample of a pulse, MISO not driven: the environment's next answer. -/
theorem pulse_sample (m : Mode) (b : Bool) (s : State) (h1 : s.par.misoPin < 16) (h : s.oe.getLsbD s.par.misoPin = false) :
    (pulse m b s).1 = s.envNow.getLsbD s.par.misoPin := by
  have he : ∀ t : State, t.envIn = s.envIn → t.fresh = s.fresh → t.envNow = s.envNow := fun t => State.envNow_congr s t
  cases m <;> simp only [pulse, cpha, State.sampleMiso] <;> rw [State.pinSample_fst _ (by simpa using h1)] <;>
    simp [h, -BitVec.getLsbD_eq_getElem] <;> rw [he] <;> simp

/-- The environment is asked once in a pulse, MISO not driven. -/
theorem pulse_env (m : Mode) (b : Bool) (s : State) (h1 : s.par.misoPin < 16) (h : s.oe.getLsbD s.par.misoPin = false) :
    (pulse m b s).2.envIn = s.envAsked.envIn ∧ (pulse m b s).2.fresh = s.envAsked.fresh := by
  cases m <;> simp [pulse, cpha, State.sampleMiso] <;>
    rw [State.pinSample_snd_of_undriven _ _ (by simpa using h1) (by simpa using h)] <;> simp

/-- What an operation on pins other than those of the bus may see of an event: a micro-step with the same enables and, outside
the clock and data out, the same latches. -/
def QuietEvent (s : State) (e : PinEvent) : Prop :=
  ∃ x, e = .micro x ∧ x.oe = s.oe ∧ x.activeCs = s.activeCs ∧
    ∀ p, p ≠ s.par.sckPin → p ≠ s.par.mosiPin → x.drv.getLsbD p = s.drv.getLsbD p

/-- The events of one pulse. -/
theorem pulse_emits (m : Mode) (b : Bool) (s : State) (k : Nat) (hp : BusPins s.par k) :
    ∃ evs, (pulse m b s).2.history = s.history ++ evs ∧ (∀ e ∈ evs, QuietEvent s e) ∧
      samplesOf evs = [(pulse m b s).1] ∧
      ∀ n j, s.seq = ⟨.shift, k, n, j⟩ → s.activeCs = some k → s.drv.getLsbD (s.par.csPin k) = s.par.csActive →
        s.drv.getLsbD s.par.sckPin = cpol m →
        evs.map (PinEvent.view s.par k) = (pulseTrace s.par k n m j b).map some := by
  have h1 := hp.sckLt; have h2 := hp.mosiLt; have h3 := hp.sckMosi; have h4 := hp.sckCs; have h5 := hp.mosiCs
  have h3' := h3.symm; have h4' := h4.symm; have h5' := h5.symm
  cases hm : cpha m with
  | false =>
    simp only [pulse, hm, State.sampleMiso, State.record_history, State.pulseDone_history, State.pinDrive_history,
      State.pinSample_history, List.append_assoc, List.append_cancel_left_eq, exists_eq_left', List.cons_append,
      List.nil_append]
    refine ⟨?_, by simp [samplesOf], ?_⟩
    · intro e he
      simp only [List.mem_cons, List.not_mem_nil, or_false] at he
      rcases he with rfl | rfl | rfl <;>
        exact ⟨_, rfl, by simp, by simp, fun p hp1 hp2 => by simp [hp1, hp2]⟩
    · intro n j hs ha hd hi
      simp [PinEvent.view, pulseTrace, hm, hs, ha, h1, h2, h3, h3', h4', h5', hd, hi, -BitVec.getLsbD_eq_getElem]
  | true =>
    simp only [pulse, hm, State.sampleMiso, State.record_history, State.pulseDone_history, State.pinDrive_history,
      State.pinSample_history, List.append_assoc, List.append_cancel_left_eq, exists_eq_left', List.cons_append,
      List.nil_append]
    refine ⟨?_, by simp [samplesOf], ?_⟩
    · intro e he
      simp only [List.mem_cons, List.not_mem_nil, or_false] at he
      rcases he with rfl | rfl <;>
        exact ⟨_, rfl, by simp, by simp, fun p hp1 hp2 => by simp [hp1, hp2]⟩
    · intro n j hs ha hd hi
      simp [PinEvent.view, pulseTrace, hm, hs, ha, h1, h2, h3, h3', h4', h5', hd, -BitVec.getLsbD_eq_getElem]

/-! ### A train of pulses -/

section
variable (m : Mode) (o : List Bool) (s : State)

@[simp] theorem shiftBits_par : (shiftBits m o s).2.par = s.par := by
  induction o generalizing s with
  | nil => rfl
  | cons b rest ih => simp [shiftBits, ih]
@[simp] theorem shiftBits_isOpen : (shiftBits m o s).2.isOpen = s.isOpen := by
  induction o generalizing s with
  | nil => rfl
  | cons b rest ih => simp [shiftBits, ih]
@[simp] theorem shiftBits_csCount : (shiftBits m o s).2.csCount = s.csCount := by
  induction o generalizing s with
  | nil => rfl
  | cons b rest ih => simp [shiftBits, ih]
@[simp] theorem shiftBits_owner : (shiftBits m o s).2.owner = s.owner := by
  induction o generalizing s with
  | nil => rfl
  | cons b rest ih => simp [shiftBits, ih]
@[simp] theorem shiftBits_gpioClaimed : (shiftBits m o s).2.gpioClaimed = s.gpioClaimed := by
  induction o generalizing s with
  | nil => rfl
  | cons b rest ih => simp [shiftBits, ih]
@[simp] theorem shiftBits_ports : (shiftBits m o s).2.ports = s.ports := by
  induction o generalizing s with
  | nil => rfl
  | cons b rest ih => simp [shiftBits, ih]
@[simp] theorem shiftBits_dir : (shiftBits m o s).2.dir = s.dir := by
  induction o generalizing s with
  | nil => rfl
  | cons b rest ih => simp [shiftBits, ih]
@[simp] theorem shiftBits_out : (shiftBits m o s).2.out = s.out := by
  induction o generalizing s with
  | nil => rfl
  | cons b rest ih => simp [shiftBits, ih]
@[simp] theorem shiftBits_oe : (shiftBits m o s).2.oe = s.oe := by
  induction o generalizing s with
  | nil => rfl
  | cons b rest ih => simp [shiftBits, ih]
@[simp] theorem shiftBits_activeCs : (shiftBits m o s).2.activeCs = s.activeCs := by
  induction o generalizing s with
  | nil => rfl
  | cons b rest ih => simp [shiftBits, ih]
@[simp] theorem shiftBits_cmdIn : (shiftBits m o s).2.cmdIn = s.cmdIn := by
  induction o generalizing s with
  | nil => rfl
  | cons b rest ih => simp [shiftBits, ih]
@[simp] theorem shiftBits_rsp : (shiftBits m o s).2.rsp = s.rsp := by
  induction o generalizing s with
  | nil => rfl
  | cons b rest ih => simp [shiftBits, ih]
@[simp] theorem shiftBits_device : (shiftBits m o s).2.device = s.device := by
  induction o generalizing s with
  | nil => rfl
  | cons b rest ih => simp [shiftBits, ih]
@[simp] theorem shiftBits_link : (shiftBits m o s).2.link = s.link := by
  induction o generalizing s with
  | nil => rfl
  | cons b rest ih => simp [shiftBits, ih]
@[simp] theorem shiftBits_resetIn : (shiftBits m o s).2.resetIn = s.resetIn := by
  induction o generalizing s with
  | nil => rfl
  | cons b rest ih => simp [shiftBits, ih]
@[simp] theorem shiftBits_faulted : (shiftBits m o s).2.faulted = s.faulted := by
  induction o generalizing s with
  | nil => rfl
  | cons b rest ih => simp [shiftBits, ih]

@[simp] theorem shiftBits_seq : (shiftBits m o s).2.seq = ⟨s.seq.st, s.seq.port, s.seq.n, s.seq.j + o.length⟩ := by
  induction o generalizing s with
  | nil => rfl
  | cons b rest ih => simp [shiftBits, ih]; omega

@[simp] theorem shiftBits_samples_length : (shiftBits m o s).1.length = o.length := by
  induction o generalizing s with
  | nil => rfl
  | cons b rest ih => simp [shiftBits, ih]

end

/-- The latches after a train: the clock at its idle level and data out at the last bit, if there was a bit. -/
theorem shiftBits_drv (m : Mode) (o : List Bool) (s : State) (p : Nat) (h1 : s.par.sckPin < 16) (h2 : s.par.mosiPin < 16)
    (h : s.par.sckPin ≠ s.par.mosiPin) (hi : s.drv.getLsbD s.par.sckPin = cpol m) :
    (shiftBits m o s).2.drv.getLsbD p
      = if p = s.par.mosiPin then o.getLastD (s.drv.getLsbD s.par.mosiPin) else s.drv.getLsbD p := by
  induction o generalizing s with
  | nil => by_cases hp : p = s.par.mosiPin <;> simp [shiftBits, hp]
  | cons b rest ih =>
    have hd := pulse_drv m b s
    simp only [shiftBits]
    rw [ih _ (by simpa using h1) (by simpa using h2) (by simpa using h) (by rw [pulse_par, hd _ h1 h2]; simp)]
    rw [pulse_par, hd _ h1 h2, hd _ h1 h2]
    by_cases hp : p = s.par.mosiPin
    · cases rest <;> simp [hp, h.symm, List.getLast?_cons]
    · by_cases hq : p = s.par.sckPin
      · subst hq; simp [hi, h]
      · simp [hp, hq]

/-- The samples of a train, MISO not driven: the environment's next answers. -/
theorem shiftBits_samples (m : Mode) (o : List Bool) (s : State) (h1 : s.par.misoPin < 16)
    (h : s.oe.getLsbD s.par.misoPin = false) : (shiftBits m o s).1 = misoAnswers o.length s := by
  induction o generalizing s with
  | nil => rfl
  | cons b rest ih =>
    have he := pulse_env m b s h1 h
    have hr := ih (pulse m b s).2 (by simpa using h1) (by simpa using h)
    simp only [shiftBits, hr, pulse_sample m b s h1 h]
    simp only [misoAnswers, List.length_cons, envAnswers_succ, List.map_cons, he.1, he.2, pulse_par]

/-- The environment is asked once per pulse, MISO not driven. -/
theorem shiftBits_env (m : Mode) (o : List Bool) (s : State) (h1 : s.par.misoPin < 16)
    (h : s.oe.getLsbD s.par.misoPin = false) :
    (shiftBits m o s).2.envIn = s.envIn.drop o.length ∧
      (shiftBits m o s).2.fresh = s.fresh + (o.length - s.envIn.length) := by
  induction o generalizing s with
  | nil => simp [shiftBits]
  | cons b rest ih =>
    have he := pulse_env m b s h1 h
    have := ih (pulse m b s).2 (by simpa using h1) (by simpa using h)
    simp only [shiftBits, this, he, State.envAsked_envIn, State.envAsked_fresh, List.length_cons]
    cases hs : s.envIn with
    | nil => simp; omega
    | cons w ws => simp

/-- The events of a train. -/
theorem shiftBits_emits (m : Mode) (o : List Bool) (s : State) (k : Nat) (hp : BusPins s.par k) :
    ∃ evs, (shiftBits m o s).2.history = s.history ++ evs ∧ (∀ e ∈ evs, QuietEvent s e) ∧
      samplesOf evs = (shiftBits m o s).1 ∧
      ∀ n j, s.seq = ⟨.shift, k, n, j⟩ → s.activeCs = some k → s.drv.getLsbD (s.par.csPin k) = s.par.csActive →
        s.drv.getLsbD s.par.sckPin = cpol m →
        evs.map (PinEvent.view s.par k) = (pulsesTrace s.par k n m j o).map some := by
  induction o generalizing s with
  | nil => exact ⟨[], by simp [shiftBits], by simp, rfl, fun n j _ _ _ _ => rfl⟩
  | cons b rest ih =>
    obtain ⟨e1, hh1, hq1, hs1, hv1⟩ := pulse_emits m b s k hp
    obtain ⟨e2, hh2, hq2, hs2, hv2⟩ := ih (pulse m b s).2 (by simpa using hp)
    have hd := fun p => pulse_drv m b s p hp.sckLt hp.mosiLt
    refine ⟨e1 ++ e2, by simp [shiftBits, hh1, hh2], ?_, ?_, ?_⟩
    · intro e he
      rcases List.mem_append.1 he with he | he
      · exact hq1 e he
      · obtain ⟨x, rfl, ho, ha, hx⟩ := hq2 e he
        refine ⟨x, rfl, by simpa using ho, by simpa using ha, fun p h1 h2 => ?_⟩
        rw [hx p (by simpa using h1) (by simpa using h2), hd]; simp [h1, h2]
    · simp only [samplesOf, List.filterMap_append, shiftBits] at *
      rw [hs1, hs2]; rfl
    · intro n j hseq ha hc hi
      rw [List.map_append, hv1 n j hseq ha hc hi]
      have := hv2 n (j + 1) (by simp [hseq]) (by simp [ha])
        (by rw [pulse_par, hd]; simp [hp.sckCs.symm, hp.mosiCs.symm, hc, -BitVec.getLsbD_eq_getElem])
        (by rw [pulse_par, hd]; simp)
      rw [pulse_par] at this
      rw [this]; simp [pulsesTrace]

end Sys2Proof.Machine
end

