-- ==== Sys2Proof/Laws/Transfer.lean ====
section
/-! SUPPORT. `XFER` as a whole (R123 to R126), field by field, and its events. -/

namespace Sys2Proof.Machine

section
variable (k : Nat) (o : List Bool) (s : State)

@[simp] theorem selectStep_par (n : Nat) : (selectStep k n s).par = s.par := by
  unfold selectStep; split <;> simp
@[simp] theorem selectStep_isOpen (n : Nat) : (selectStep k n s).isOpen = s.isOpen := by
  unfold selectStep; split <;> simp
@[simp] theorem selectStep_csCount (n : Nat) : (selectStep k n s).csCount = s.csCount := by
  unfold selectStep; split <;> simp
@[simp] theorem selectStep_owner (n : Nat) : (selectStep k n s).owner = s.owner := by
  unfold selectStep; split <;> simp
@[simp] theorem selectStep_gpioClaimed (n : Nat) : (selectStep k n s).gpioClaimed = s.gpioClaimed := by
  unfold selectStep; split <;> simp
@[simp] theorem selectStep_ports (n : Nat) : (selectStep k n s).ports = s.ports := by
  unfold selectStep; split <;> simp
@[simp] theorem selectStep_dir (n : Nat) : (selectStep k n s).dir = s.dir := by
  unfold selectStep; split <;> simp
@[simp] theorem selectStep_out (n : Nat) : (selectStep k n s).out = s.out := by
  unfold selectStep; split <;> simp
@[simp] theorem selectStep_oe (n : Nat) : (selectStep k n s).oe = s.oe := by
  unfold selectStep; split <;> simp
@[simp] theorem selectStep_cmdIn (n : Nat) : (selectStep k n s).cmdIn = s.cmdIn := by
  unfold selectStep; split <;> simp
@[simp] theorem selectStep_rsp (n : Nat) : (selectStep k n s).rsp = s.rsp := by
  unfold selectStep; split <;> simp
@[simp] theorem selectStep_device (n : Nat) : (selectStep k n s).device = s.device := by
  unfold selectStep; split <;> simp
@[simp] theorem selectStep_link (n : Nat) : (selectStep k n s).link = s.link := by
  unfold selectStep; split <;> simp
@[simp] theorem selectStep_resetIn (n : Nat) : (selectStep k n s).resetIn = s.resetIn := by
  unfold selectStep; split <;> simp
@[simp] theorem selectStep_faulted (n : Nat) : (selectStep k n s).faulted = s.faulted := by
  unfold selectStep; split <;> simp

@[simp] theorem selectStep_drv (n : Nat) : (selectStep k n s).drv = setPin (s.par.csPin k) s.par.csActive s.drv := by
  unfold selectStep; split <;> simp

@[simp] theorem selectStep_activeCs (n : Nat) : (selectStep k n s).activeCs = some k := by
  unfold selectStep; split <;> simp

@[simp] theorem selectStep_seq (n : Nat) :
    (selectStep k n s).seq = ⟨if 0 < n then .shift else .select, s.seq.port, s.seq.n, s.seq.j⟩ := by
  unfold selectStep; split <;> simp

@[simp] theorem selectStep_envIn (n : Nat) : (selectStep k n s).envIn = s.envIn := by
  unfold selectStep; split <;> simp

@[simp] theorem selectStep_fresh (n : Nat) : (selectStep k n s).fresh = s.fresh := by
  unfold selectStep; split <;> simp

@[simp] theorem selectStep_history (n : Nat) :
    (selectStep k n s).history = s.history ++ [.micro ⟨setPin (s.par.csPin k) s.par.csActive s.drv, s.oe, some k,
      ⟨.select, s.seq.port, s.seq.n, s.seq.j⟩, none⟩] := by
  unfold selectStep; split <;> simp

@[simp] theorem xfer_par : (xfer k o s).2.par = s.par := by
  simp [xfer, parkStep, deselectStep, setupStep]
@[simp] theorem xfer_isOpen : (xfer k o s).2.isOpen = s.isOpen := by
  simp [xfer, parkStep, deselectStep, setupStep]
@[simp] theorem xfer_csCount : (xfer k o s).2.csCount = s.csCount := by
  simp [xfer, parkStep, deselectStep, setupStep]
@[simp] theorem xfer_owner : (xfer k o s).2.owner = s.owner := by
  simp [xfer, parkStep, deselectStep, setupStep]
@[simp] theorem xfer_gpioClaimed : (xfer k o s).2.gpioClaimed = s.gpioClaimed := by
  simp [xfer, parkStep, deselectStep, setupStep]
@[simp] theorem xfer_ports : (xfer k o s).2.ports = s.ports := by
  simp [xfer, parkStep, deselectStep, setupStep]
@[simp] theorem xfer_dir : (xfer k o s).2.dir = s.dir := by
  simp [xfer, parkStep, deselectStep, setupStep]
@[simp] theorem xfer_out : (xfer k o s).2.out = s.out := by
  simp [xfer, parkStep, deselectStep, setupStep]
@[simp] theorem xfer_oe : (xfer k o s).2.oe = s.oe := by
  simp [xfer, parkStep, deselectStep, setupStep]
@[simp] theorem xfer_cmdIn : (xfer k o s).2.cmdIn = s.cmdIn := by
  simp [xfer, parkStep, deselectStep, setupStep]
@[simp] theorem xfer_rsp : (xfer k o s).2.rsp = s.rsp := by
  simp [xfer, parkStep, deselectStep, setupStep]
@[simp] theorem xfer_device : (xfer k o s).2.device = s.device := by
  simp [xfer, parkStep, deselectStep, setupStep]
@[simp] theorem xfer_link : (xfer k o s).2.link = s.link := by
  simp [xfer, parkStep, deselectStep, setupStep]
@[simp] theorem xfer_resetIn : (xfer k o s).2.resetIn = s.resetIn := by
  simp [xfer, parkStep, deselectStep, setupStep]
@[simp] theorem xfer_faulted : (xfer k o s).2.faulted = s.faulted := by
  simp [xfer, parkStep, deselectStep, setupStep]

@[simp] theorem xfer_activeCs : (xfer k o s).2.activeCs = none := by simp [xfer, parkStep, deselectStep]

@[simp] theorem xfer_seq : (xfer k o s).2.seq = { s.seq with st := .idle } := by
  simp [xfer, parkStep, deselectStep, setupStep]

@[simp] theorem xfer_samples_length : (xfer k o s).1.length = o.length := by simp [xfer]

theorem xfer_fst : (xfer k o s).1
    = (shiftBits (s.portAt k).mode o (selectStep k o.length (setupStep k o.length (s.portAt k).mode s))).1 := by
  simp only [xfer]

theorem xfer_snd : (xfer k o s).2
    = parkStep s.seq (deselectStep k
        (shiftBits (s.portAt k).mode o (selectStep k o.length (setupStep k o.length (s.portAt k).mode s))).2) := by
  simp only [xfer]

/-- The latches after a transfer (R126). -/
theorem xfer_drv (p : Nat) (hp : BusPins s.par k) :
    (xfer k o s).2.drv.getLsbD p
      = if p = s.par.sckPin then cpol (s.portAt k).mode else if p = s.par.mosiPin then false
        else if p = s.par.csPin k then !s.par.csActive else s.drv.getLsbD p := by
  have h1 := hp.sckLt; have h2 := hp.mosiLt; have h3 := hp.sckMosi; have h4 := hp.sckCs; have h5 := hp.mosiCs
  have h6 := hp.csLt
  simp only [xfer, parkStep, deselectStep, State.record_drv, State.pinDrive_drv, getLsbD_setPin, State.record_par,
    State.pinDrive_par, shiftBits_par, selectStep_par, setupStep]
  rw [shiftBits_drv]
  all_goals simp [h1, h2, h3, h4, -BitVec.getLsbD_eq_getElem]
  by_cases e1 : p = s.par.mosiPin
  · simp [e1, h2, h3.symm]
  · by_cases e2 : p = s.par.csPin k
    · simp [e2, h6, h4.symm, h5.symm]
    · by_cases e3 : p = s.par.sckPin <;> simp [e1, e2, e3, h3, h4]

/-- The samples, MISO not driven: the environment's next answers. -/
theorem xfer_samples (h1 : s.par.misoPin < 16) (h : s.oe.getLsbD s.par.misoPin = false) :
    (xfer k o s).1 = misoAnswers o.length s := by
  simp only [xfer]
  rw [shiftBits_samples _ _ _ (by simpa [setupStep] using h1) (by simpa [setupStep] using h)]
  simp [misoAnswers, setupStep]

/-- The environment is asked once per pulse, MISO not driven. -/
theorem xfer_env (h1 : s.par.misoPin < 16) (h : s.oe.getLsbD s.par.misoPin = false) :
    (xfer k o s).2.envIn = s.envIn.drop o.length ∧ (xfer k o s).2.fresh = s.fresh + (o.length - s.envIn.length) := by
  simp only [xfer, parkStep, deselectStep, State.record_envIn, State.pinDrive_envIn, State.record_fresh, State.pinDrive_fresh]
  rw [(shiftBits_env _ _ _ (by simpa [setupStep] using h1) (by simpa [setupStep] using h)).1,
    (shiftBits_env _ _ _ (by simpa [setupStep] using h1) (by simpa [setupStep] using h)).2]
  simp [setupStep]

/-- An event of a transfer on port `k`, seen from any other pin (R52, R123). -/
def OffBusEvent (e : PinEvent) : Prop :=
  ∃ x, e = .micro x ∧ x.oe = s.oe ∧ (x.activeCs = s.activeCs ∨ x.activeCs = none ∨ x.activeCs = some k) ∧
    ∀ p, p ≠ s.par.sckPin → p ≠ s.par.mosiPin → p ≠ s.par.csPin k → x.drv.getLsbD p = s.drv.getLsbD p

/-- The events of a transfer (R124). -/
theorem xfer_emits (hp : BusPins s.par k) :
    ∃ evs, (xfer k o s).2.history = s.history ++ evs ∧ (∀ e ∈ evs, OffBusEvent k s e) ∧ samplesOf evs = (xfer k o s).1 ∧
      evs.map (PinEvent.view s.par k) = (xferTrace s.par k (s.portAt k).mode (s.drv.getLsbD (s.par.csPin k)) s.activeCs o).map some := by
  have h1 := hp.sckLt; have h2 := hp.mosiLt; have h3 := hp.sckMosi; have h4 := hp.sckCs; have h5 := hp.mosiCs
  have h6 := hp.csLt; have h3' := h3.symm; have h4' := h4.symm; have h5' := h5.symm
  rw [xfer_fst, xfer_snd]
  obtain ⟨m, hm⟩ : ∃ m, m = (s.portAt k).mode := ⟨_, rfl⟩
  obtain ⟨a, hadef⟩ : ∃ a, a = selectStep k o.length (setupStep k o.length m s) := ⟨_, rfl⟩
  rw [← hm, ← hadef]
  have ha : a.par = s.par := by simp [hadef, setupStep]
  have hao : a.oe = s.oe := by simp [hadef, setupStep]
  have had : ∀ p, a.drv.getLsbD p = if p = s.par.sckPin then cpol m else if p = s.par.mosiPin then false
      else if p = s.par.csPin k then s.par.csActive else s.drv.getLsbD p := by
    intro p
    simp only [hadef, setupStep, selectStep_drv, State.record_drv, State.pinDrive_drv, getLsbD_setPin, State.record_par,
      State.pinDrive_par, h1, h2, h6, and_true]
    by_cases e2 : p = s.par.csPin k
    · simp [e2, h4', h5']
    · by_cases e1 : p = s.par.mosiPin <;> by_cases e3 : p = s.par.sckPin <;> simp_all
  have hah : a.history = s.history ++ [.micro ⟨setPin s.par.mosiPin false (setPin s.par.sckPin (cpol m) s.drv), s.oe,
        s.activeCs, ⟨.setup, k, o.length, 0⟩, none⟩, .micro ⟨a.drv, s.oe, some k, ⟨.select, k, o.length, 0⟩, none⟩] := by
    simp [hadef, setupStep]
  clear hm
  obtain ⟨evs, hh, hq, hs, hv⟩ := shiftBits_emits m o a k (ha ▸ hp)
  have hfin : ∀ p, (shiftBits m o a).2.drv.getLsbD p = if p = s.par.mosiPin then o.getLastD false else a.drv.getLsbD p := by
    intro p
    have := shiftBits_drv m o a p (ha ▸ h1) (ha ▸ h2) (ha ▸ h3) (by rw [had, ha]; simp)
    rw [this, ha, had s.par.mosiPin]; simp [h3']
  have hseq : (shiftBits m o a).2.seq = ⟨if 0 < o.length then .shift else .select, k, o.length, o.length⟩ := by
    simp [hadef, setupStep]
  have hx : (parkStep s.seq (deselectStep k (shiftBits m o a).2)).history = s.history ++ ([.micro ⟨setPin s.par.mosiPin false (setPin s.par.sckPin (cpol m) s.drv), s.oe,
        s.activeCs, ⟨.setup, k, o.length, 0⟩, none⟩, .micro ⟨a.drv, s.oe, some k, ⟨.select, k, o.length, 0⟩, none⟩] ++ evs ++
      [.micro ⟨setPin (s.par.csPin k) (!s.par.csActive) (shiftBits m o a).2.drv, s.oe, none, ⟨.deselect, k, o.length, o.length⟩, none⟩,
       .micro ⟨setPin s.par.mosiPin false (setPin (s.par.csPin k) (!s.par.csActive) (shiftBits m o a).2.drv), s.oe, none,
        ⟨.park, k, o.length, o.length⟩, none⟩]) := by
    simp only [parkStep, deselectStep, State.record_history, State.pinDrive_history, hh, hah, hseq, State.pinDrive_drv,
      State.pinDrive_oe, shiftBits_oe, shiftBits_par, hao, ha, State.pinDrive_activeCs, State.pinDrive_seq, State.record_drv,
      State.record_par, State.pinDrive_par, State.record_seq, State.record_oe, State.record_activeCs]
    simp [List.append_assoc]
  refine ⟨_, hx, ?_, ?_, ?_⟩
  · intro e he
    simp only [List.mem_append, List.mem_cons, List.not_mem_nil, or_false] at he
    rcases he with ((rfl | rfl) | he) | rfl | rfl
    · exact ⟨_, rfl, rfl, .inl rfl, fun p e1 e2 e3 => by simp [e1, e2]⟩
    · exact ⟨_, rfl, rfl, .inr (.inr rfl), fun p e1 e2 e3 => by simp [had, e1, e2, e3]⟩
    · obtain ⟨x, rfl, xo, xa, xd⟩ := hq e he
      refine ⟨x, rfl, by rw [xo, hao], .inr (.inr (by rw [xa]; simp [hadef])), fun p e1 e2 e3 => ?_⟩
      rw [xd p (by rwa [ha]) (by rwa [ha]), had]; simp [e1, e2, e3]
    · exact ⟨_, rfl, rfl, .inr (.inl rfl), fun p e1 e2 e3 => by simp [hfin, had, e1, e2, e3]⟩
    · exact ⟨_, rfl, rfl, .inr (.inl rfl), fun p e1 e2 e3 => by simp [hfin, had, e1, e2, e3]⟩
  · rw [← hs]
    simp [samplesOf]
  · have hvs : evs.map (PinEvent.view s.par k) = (pulsesTrace s.par k o.length m 0 o).map some := by
      cases o with
      | nil =>
        have : evs = [] := by simpa [shiftBits] using hh
        simp [this, pulsesTrace]
      | cons b rest =>
        have := hv (b :: rest).length 0 (by simp [hadef, setupStep]) (by simp [hadef])
          (by rw [ha, had]; simp [h4', h5']) (by rw [ha, had]; simp)
        rwa [ha] at this
    have hsnd : ∀ p, (setPin (s.par.csPin k) (!s.par.csActive) (shiftBits m o a).2.drv).getLsbD p
        = if p = s.par.csPin k then !s.par.csActive else if p = s.par.mosiPin then o.getLastD false else a.drv.getLsbD p := by
      intro p; rw [getLsbD_setPin, hfin]; simp only [h6, and_true]
    rw [List.map_append, List.map_append, hvs]
    unfold xferTrace
    rw [List.map_append, List.map_append]
    refine congr (congrArg _ (congrFun (congrArg _ ?_) _)) ?_
    · rw [List.map_cons, List.map_cons, List.map_cons, List.map_cons]
      refine congr (congrArg _ ?_) (congrFun (congrArg _ ?_) _)
      · simp only [PinEvent.view, getLsbD_setPin, h1, h2, h3, h3', h4', h5', and_true, if_true, if_false, Option.isSome_none]
      · simp only [PinEvent.view, had, h3', h4', h5', if_true, if_false, Option.isSome_none]
    · rw [List.map_cons, List.map_cons, List.map_cons, List.map_cons]
      refine congr (congrArg _ ?_) (congrFun (congrArg _ ?_) _)
      · simp only [PinEvent.view, hsnd, had, h3, h4, h5, h3', if_true, if_false, Option.isSome_none]
      · simp only [PinEvent.view, getLsbD_setPin, hsnd, had, h2, h3, h4, h5, h3', h5', and_true, if_true, if_false,
          Option.isSome_none]

end

end Sys2Proof.Machine
end

