-- ==== Sys2Proof/Laws/Operations.lean ====
section
/-! SUPPORT. The responses word by word (R71), the checks that stand before the effects (R146, R168), and what each operation
can do: it raises an error, the link breaks, or it completes. -/

namespace Sys2Proof.Machine

/-! ### Responses -/

theorem errorResponse_configuration : errorResponse .configuration = ⟨0x01000000#32, []⟩ := by decide

theorem errorResponse_invalidArgument : errorResponse .invalidArgument = ⟨0x02000000#32, []⟩ := by decide

theorem errorResponse_gpioConflict : errorResponse .gpioConflict = ⟨0x03000000#32, []⟩ := by decide

theorem errorResponse_transport : errorResponse .transport = ⟨0x04000000#32, []⟩ := by decide

theorem responseWord_ok (v : BitVec 16) : responseWord 0#8 v = v.setWidth 32 := by
  refine BitVec.eq_of_getLsbD_eq fun i hi => ?_
  simp only [responseWord, BitVec.getLsbD_append, BitVec.getLsbD_setWidth]
  by_cases h : i < 16
  · simp [h, hi, -BitVec.getLsbD_eq_getElem]
  · simp [h, -BitVec.getLsbD_eq_getElem, BitVec.getLsbD_of_ge v i (by omega)]

theorem okResponse_eq (v : BitVec 16) (p : List Byte) : okResponse v p = ⟨v.setWidth 32, p⟩ := by rw [okResponse, responseWord_ok]

@[simp] theorem errorResponse_status (e : ErrorClass) : (errorResponse e).word.extractLsb' 24 8 = e.code := by
  cases e <;> decide

@[simp] theorem errorResponse_middle (e : ErrorClass) : (errorResponse e).word.extractLsb' 16 8 = 0#8 := by cases e <;> decide

@[simp] theorem errorResponse_value (e : ErrorClass) : (errorResponse e).word.extractLsb' 0 16 = 0#16 := by
  cases e <;> decide

@[simp] theorem errorResponse_payload (e : ErrorClass) : (errorResponse e).payload = [] := rfl

@[simp] theorem okResponse_status (v : BitVec 16) (p : List Byte) : (okResponse v p).word.extractLsb' 24 8 = 0#8 := by
  rw [okResponse_eq]
  refine BitVec.eq_of_getLsbD_eq fun i hi => ?_
  simp only [BitVec.getLsbD_extractLsb', BitVec.getLsbD_setWidth]
  simp [-BitVec.getLsbD_eq_getElem, BitVec.getLsbD_of_ge v (24 + i) (by omega)]

@[simp] theorem okResponse_middle (v : BitVec 16) (p : List Byte) : (okResponse v p).word.extractLsb' 16 8 = 0#8 := by
  rw [okResponse_eq]
  refine BitVec.eq_of_getLsbD_eq fun i hi => ?_
  simp only [BitVec.getLsbD_extractLsb', BitVec.getLsbD_setWidth]
  simp [-BitVec.getLsbD_eq_getElem]

@[simp] theorem okResponse_value (v : BitVec 16) (p : List Byte) : (okResponse v p).word.extractLsb' 0 16 = v := by
  rw [okResponse_eq]
  refine BitVec.eq_of_getLsbD_eq fun i hi => ?_
  simp only [BitVec.getLsbD_extractLsb', BitVec.getLsbD_setWidth]
  simp [-BitVec.getLsbD_eq_getElem, hi]; omega

@[simp] theorem okResponse_payload (v : BitVec 16) (p : List Byte) : (okResponse v p).payload = p := rfl

/-- An error answered: the response, and nothing else, is new (R190). -/
theorem State.raise_eq (e : ErrorClass) (s : State) : s.raise e = { s with rsp := some (errorResponse e) } := rfl

/-! ### Checks -/

/-- `droptail` of a transfer whose fields are legal, as a number. -/
theorem dropCount_le {d : BitVec 8} {len : Nat} (h : LegalFields d len) : dropCount d ≤ 7 := by
  obtain ⟨h1, h2, -⟩ := h
  simp only [dropCount, droptailOf]; omega

/-- Checks 1 to 5 pass exactly when the fields are legal and the port is there (R146). -/
theorem checkXfer_none_iff (index d : BitVec 8) (len : Nat) (s : State) :
    checkXfer index d len s = none ↔
      LegalFields d len ∧ s.isOpen = true ∧ index.toNat < s.csCount.toNat ∧ (s.portAt index.toNat).valid = true := by
  unfold checkXfer LegalFields droptailOf
  constructor
  · intro h
    repeat' split at h
    all_goals simp_all
    omega
  · rintro ⟨⟨h1, h2, h3⟩, h4, h5, h6⟩
    have : ¬ (d.toInt < 0 ∨ 7 < d.toInt) := by omega
    have h' : ¬ (len = 0 ∧ 0 < d.toInt) := by omega
    simp [this, h', h4, h6, Nat.not_le.2 h5]

/-- A failed check of a transfer is one of two errors. -/
theorem checkXfer_some {index d : BitVec 8} {len : Nat} {s : State} {e : ErrorClass} (h : checkXfer index d len s = some e) :
    e = .invalidArgument ∧ ¬ LegalFields d len ∨
      e = .configuration ∧ LegalFields d len ∧
        (s.isOpen = false ∨ s.csCount.toNat ≤ index.toNat ∨ (s.portAt index.toNat).valid = false) := by
  unfold checkXfer LegalFields droptailOf at *
  repeat' split at h
  all_goals simp at h
  all_goals subst h
  · exact .inl ⟨rfl, by omega⟩
  · exact .inl ⟨rfl, by omega⟩
  all_goals exact .inr ⟨rfl, by omega, by simp_all⟩

/-- The checks on the GPIO bank pass exactly on an open block whose bank is claimed (R168). -/
theorem checkGpio_none_iff (s : State) : checkGpio s = none ↔ s.isOpen = true ∧ s.gpioClaimed = true := by
  unfold checkGpio
  repeat' split
  all_goals simp_all

theorem checkGpio_some {s : State} {e : ErrorClass} (h : checkGpio s = some e) :
    e = .configuration ∧ (s.isOpen = false ∨ s.gpioClaimed = false) := by
  unfold checkGpio at h
  repeat' split at h
  all_goals simp_all

/-! ### Transfers -/

/-- What `transfer` does: a check fails, the link breaks, or the body runs. -/
theorem transfer_cases (index d : BitVec 8) (len : Nat) (body : State → State) (s : State) :
    (∃ e, checkXfer index d len s = some e ∧ transfer index d len body s = s.raise e) ∨
    (checkXfer index d len s = none ∧ s.linkOk = false ∧
      transfer index d len body s = s.linkAsked.linkFailure s.spiClaim 0#16) ∨
    (checkXfer index d len s = none ∧ s.linkOk = true ∧ transfer index d len body s = body s.linkAsked) := by
  unfold transfer
  cases hc : checkXfer index d len s with
  | some e => exact .inl ⟨e, rfl, rfl⟩
  | none => cases hl : s.linkOk <;> simp [State.askLink, hl]

/-- After its checks a transfer runs one `XFER` of some train on port `k`, then answers OK; the payload, if there is one, is
trimmed by `d`. -/
def CompletesBy (k d : Nat) (body : State → State) : Prop :=
  ∀ s, ∃ o v p, body s = (xfer k o s).2.answerOk v p ∧ (p = [] ∨ ∃ q samples, p = rxbytes q samples d)

theorem writeBody_completes (k : Nat) (data : List Byte) (d : Nat) : CompletesBy k d (writeBody k data d) :=
  fun _ => ⟨_, _, _, rfl, .inl rfl⟩

theorem readBody_completes (k : Nat) (n : BitVec 16) (d : Nat) : CompletesBy k d (readBody k n d) :=
  fun _ => ⟨_, _, _, rfl, .inr ⟨_, _, rfl⟩⟩

theorem halfDuplexBody_completes (k : Nat) (data : List Byte) (n : BitVec 16) (d : Nat) :
    CompletesBy k d (halfDuplexBody k data n d) := fun _ => ⟨_, _, _, rfl, .inr ⟨_, _, rfl⟩⟩

theorem duplexBody_completes (k : Nat) (data : List Byte) (d : Nat) : CompletesBy k d (duplexBody k data d) :=
  fun _ => ⟨_, _, _, rfl, .inr ⟨_, _, rfl⟩⟩

theorem exec_spiWrite (index d : BitVec 8) (data : List Byte) (s : State) :
    exec (.spiWrite index data d) s
      = .next (transfer index d data.length (writeBody index.toNat data (dropCount d)) s) := rfl

theorem exec_spiRead (index d : BitVec 8) (n : BitVec 16) (s : State) :
    exec (.spiRead index n d) s = .next (transfer index d n.toNat (readBody index.toNat n (dropCount d)) s) := rfl

/-- The three branches of SPI_EXCHANGE (R144). -/
theorem exec_spiExchange_half (index d : BitVec 8) (data : List Byte) (n : BitVec 16) (h : 0 < n.toNat) (s : State) :
    exec (.spiExchange index data n false d) s
      = .next (transfer index d n.toNat (halfDuplexBody index.toNat data n (dropCount d)) s) := by
  simp [exec, execSpiExchange, trailingLength, h]

theorem exec_spiExchange_write (index d : BitVec 8) (data : List Byte) (n : BitVec 16) (h : n.toNat = 0) (s : State) :
    exec (.spiExchange index data n false d) s
      = .next (transfer index d data.length (writeBody index.toNat data (dropCount d)) s) := by
  simp [exec, execSpiExchange, trailingLength, h]

theorem exec_spiExchange_duplex (index d : BitVec 8) (data : List Byte) (n : BitVec 16) (s : State) :
    exec (.spiExchange index data n true d) s
      = .next (transfer index d data.length (duplexBody index.toNat data (dropCount d)) s) := by
  simp [exec, execSpiExchange, trailingLength]

/-- Every transfer operation is `transfer` around one `XFER`. -/
theorem exec_of_isTransfer {i : Instr} {index d : BitVec 8} {len : Nat} (h : IsTransfer i index d len) :
    ∃ body, (∀ s, exec i s = .next (transfer index d len body s)) ∧ CompletesBy index.toNat (dropCount d) body := by
  rcases h with ⟨data, rfl, rfl⟩ | ⟨n, rfl, rfl⟩ | ⟨data, n, rfl, h, rfl⟩ | ⟨data, n, rfl, h, rfl⟩ | ⟨data, n, rfl, rfl⟩
  · exact ⟨_, exec_spiWrite index d data, writeBody_completes _ _ _⟩
  · exact ⟨_, exec_spiRead index d n, readBody_completes _ _ _⟩
  · exact ⟨_, exec_spiExchange_half index d data n h, halfDuplexBody_completes _ _ _ _⟩
  · exact ⟨_, exec_spiExchange_write index d data n h, writeBody_completes _ _ _⟩
  · exact ⟨_, exec_spiExchange_duplex index d data n, duplexBody_completes _ _ _⟩

/-- An operation is a transfer, or one of the other seven. -/
theorem isTransfer_or (i : Instr) :
    (∃ index d len, IsTransfer i index d len) ∨ (∃ n, i = .configure n) ∨ (∃ a f m o, i = .getPort a f m o) ∨ i = .getGpio ∨
      i = .terminate ∨ (∃ m o, i = .gpioSetDirection m o) ∨ (∃ v, i = .gpioWrite v) ∨ i = .gpioRead := by
  cases i with
  | spiWrite index data d => exact .inl ⟨index, d, _, .inl ⟨data, rfl, rfl⟩⟩
  | spiRead index n d => exact .inl ⟨index, d, _, .inr (.inl ⟨n, rfl, rfl⟩)⟩
  | spiExchange index data n duplex d =>
    refine .inl ⟨index, d, trailingLength data.length n duplex, ?_⟩
    unfold trailingLength
    cases duplex with
    | true => exact .inr (.inr (.inr (.inr ⟨data, n, rfl, by simp⟩)))
    | false =>
      by_cases h : 0 < n.toNat
      · exact .inr (.inr (.inl ⟨data, n, rfl, h, by simp [h]⟩))
      · exact .inr (.inr (.inr (.inl ⟨data, n, rfl, by omega, by simp [h]⟩)))
  | configure n => simp
  | getPort a f m o => simp
  | getGpio => simp
  | terminate => simp
  | gpioSetDirection m o => simp
  | gpioWrite v => simp
  | gpioRead => simp

/-- A transfer raises an error, the link breaks, or it completes after one `XFER`. -/
theorem exec_transfer_cases {i : Instr} {index d : BitVec 8} {len : Nat} (h : IsTransfer i index d len) (s : State) :
    (∃ e, checkXfer index d len s = some e ∧ exec i s = .next (s.raise e)) ∨
    (checkXfer index d len s = none ∧ s.linkOk = false ∧ exec i s = .next (s.linkAsked.linkFailure s.spiClaim 0#16)) ∨
    (checkXfer index d len s = none ∧ s.linkOk = true ∧ ∃ o v p, exec i s = .next ((xfer index.toNat o s.linkAsked).2.answerOk v p) ∧
      (p = [] ∨ ∃ q samples, p = rxbytes q samples (dropCount d))) := by
  obtain ⟨body, hb, hc⟩ := exec_of_isTransfer h
  rcases transfer_cases index d len body s with ⟨e, h1, h2⟩ | ⟨h1, h2, h3⟩ | ⟨h1, h2, h3⟩
  · exact .inl ⟨e, h1, by rw [hb, h2]⟩
  · exact .inr (.inl ⟨h1, h2, by rw [hb, h3]⟩)
  · obtain ⟨o, v, p, h4, h5⟩ := hc s.linkAsked
    exact .inr (.inr ⟨h1, h2, o, v, p, by rw [hb, h3, h4], h5⟩)

/-! ### Any operation, and a step -/

/-- Every operation gives a next state: an error is an answer (R190, log 20). -/
theorem exec_next (i : Instr) (s : State) : ∃ t, exec i s = .next t := by
  cases i <;> exact ⟨_, rfl⟩

/-- An operation takes nothing more from the command port, which its command has left already. -/
theorem exec_cmdIn {i : Instr} {s t : State} (h : exec i s = .next t) : t.cmdIn = s.cmdIn := by
  rcases isTransfer_or i with ⟨index, d, len, ht⟩ | ⟨n, rfl⟩ | ⟨a, f, m, o, rfl⟩ | rfl | rfl | ⟨m, o, rfl⟩ | ⟨v, rfl⟩ | rfl
  · rcases exec_transfer_cases ht s with ⟨e, -, h1⟩ | ⟨-, -, h1⟩ | ⟨-, -, o, v, p, h1, -⟩ <;>
      · rw [h1] at h; injection h with h; subst h; simp [State.linkFailure]
  all_goals
    simp only [exec, execConfigure, execGetPort, execGetGpio, execTerminate, execGpioSetDirection, execGpioWrite, execGpioRead,
      State.askLink] at h
    injection h with h; subst h
    repeat' split
    all_goals simp [State.linkFailure, State.openBlock, State.closeBlock, State.claimGpio, State.setDirection, State.writeBank]

/-- Which command a step may run after a TransportError (R184, log 13). -/
theorem may_run_iff (s : State) (i : Instr) : ¬ (s.faulted = true ∧ i ≠ .terminate) ↔ s.faulted = false ∨ i = .terminate := by
  cases s.faulted <;> simp

theorem runCommand_command {s : State} {i : Instr} {rest : List Byte} (h : decode s.cmdIn = .command i rest) :
    runCommand s
      = if s.faulted = true ∧ i ≠ .terminate then .fault .afterTransportError else exec i { s with cmdIn := rest } := by
  unfold runCommand; rw [h]

theorem runCommand_incomplete {s : State} (h : decode s.cmdIn = .incomplete) : runCommand s = .next s := by
  unfold runCommand; rw [h]

/-- Everything that running the front of the port can do when it goes on: a command runs, the block waits, or an illegal word is
answered. -/
theorem runCommand_next {s t : State} (h : runCommand s = .next t) :
    (∃ i rest, decode s.cmdIn = .command i rest ∧ (s.faulted = false ∨ i = .terminate) ∧
      exec i { s with cmdIn := rest } = .next t) ∨
    (decode s.cmdIn = .incomplete ∧ t = s) ∨ ∃ rest, s.faulted = false ∧ t = s.refuseWord rest := by
  unfold runCommand at h
  split at h
  · next i rest hd =>
    split at h
    · cases h
    · next hf => exact .inl ⟨i, rest, hd, (may_run_iff s i).1 hf, h⟩
  · next hd => injection h with h; exact .inr (.inl ⟨hd, h.symm⟩)
  all_goals
    next rest hd =>
      split at h
      · cases h
      · next hf => injection h with h; exact .inr (.inr ⟨rest, by simpa using hf, h.symm⟩)

/-- A step in which reset acts always gives the state after reset, whatever the block was doing (R210). -/
theorem resetStep_next (k : Nat) (s : State) : ∃ t, resetStep k s = .next (resetInside k s t) := by
  unfold resetStep
  cases h : runCommand s with
  | next t => exact ⟨t, rfl⟩
  | fault f => exact ⟨_, rfl⟩
  | refused r =>
    exfalso
    unfold runCommand at h
    split at h
    · next i rest _ =>
      split at h
      · cases h
      · obtain ⟨t, ht⟩ := exec_next i { s with cmdIn := rest }
        rw [ht] at h; cases h
    · cases h
    all_goals split at h <;> cases h

end Sys2Proof.Machine
end

