-- ==== Sys2Proof/Laws/Invariant.lean ====
section
/-! SUPPORT. The invariants, one operation at a time: each shared state change keeps `Inv` and, where it says so, `PinInv`. -/

namespace Sys2Proof.Machine

/-! ### The ledger -/

theorem getLsbD_spiClaim (s : State) (h : s.par.w ≤ 16) (p : Nat) :
    s.spiClaim.getLsbD p = (decide (p < s.par.w) && (s.ownerOf p).isSpi) := getLsbD_pinsWhere _ _ _ h

theorem getLsbD_gpioClaim (s : State) (h : s.par.w ≤ 16) (p : Nat) :
    s.gpioClaim.getLsbD p = (decide (p < s.par.w) && (s.ownerOf p == .gpio)) := getLsbD_pinsWhere _ _ _ h

theorem State.anyPort_iff (s : State) : s.anyPort = true ↔ ∃ k, k < s.csCount.toNat ∧ (s.portAt k).valid = true := by
  simp [State.anyPort]

theorem getD_map_range (f : Nat → Owner) (n p : Nat) :
    ((List.range n).map f).getD p .free = if p < n then f p else .free := by
  simp only [List.getD_eq_getElem?_getD, List.getElem?_map]
  by_cases h : p < n <;> simp [h]

theorem portAt_invalidatePorts (ports : List Port) (k : Nat) :
    (invalidatePorts ports).getD k Port.reset = { ports.getD k Port.reset with valid := false } := by
  simp only [invalidatePorts, List.getD_eq_getElem?_getD, List.getElem?_map]
  cases ports[k]? <;> simp [Port.reset]

theorem ownerOf_claimGpio (s : State) (p : Nat) :
    s.claimGpio.ownerOf p = if p < s.owner.length ∧ s.ownerOf p = .free then .gpio else s.ownerOf p := by
  simp only [State.claimGpio, State.ownerOf, List.getD_eq_getElem?_getD, List.getElem?_map]
  by_cases h : p < s.owner.length
  · simp only [h, List.getElem?_eq_getElem, Option.map_some, Option.getD_some, true_and]
    cases s.owner[p] <;> rfl
  · simp [h]

/-- The roles CONFIGURE gives (R80). -/
theorem roleAt_csPin {c : Params} (hv : c.valid = true) {n k : Nat} (hk : k < n) (hn : n ≤ c.csMax) :
    roleAt c n (c.csPin k) = .cs k := by
  have hv := (Params.valid_iff c).1 hv
  have e : c.csPin k = c.csBase + k := rfl
  simp only [roleAt]
  rw [if_neg (by omega), if_neg (by omega), if_neg (by omega), if_pos (by omega), e, Nat.add_sub_cancel_left]

theorem roleAt_other {c : Params} {n p : Nat} (h1 : p ≠ c.sckPin) (h2 : p ≠ c.mosiPin) (h3 : p ≠ c.misoPin)
    (h4 : ∀ k, k < n → p ≠ c.csPin k) : roleAt c n p = .free := by
  simp only [roleAt]
  rw [if_neg h1, if_neg h2, if_neg h3, if_neg]
  rintro ⟨h5, h6⟩
  exact h4 (p - c.csBase) h6 (by simp only [Params.csPin]; omega)

theorem roleAt_ne_gpio (c : Params) (n p : Nat) : roleAt c n p ≠ .gpio := by
  unfold roleAt; repeat' split
  all_goals simp

/-! ### What the invariant says of the claimed pins -/

variable {s t : State}

theorem Inv.width (h : Inv s) : s.par.w ≤ 16 := ((Params.valid_iff _).1 h.parValid).2.1

/-- No pin is claimed on a closed block. -/
theorem Inv.noClaim_of_closed (h : Inv s) (hc : s.isOpen = false) : s.gpioClaim = 0#16 := by
  refine pinWord_ext fun p _ => ?_
  rw [getLsbD_gpioClaim s h.width, BitVec.getLsbD_zero]
  by_cases hp : p < s.par.w
  · simp [h.ledgerClosed hc p hp]
  · simp [hp]

/-- The bank never holds a pin of the SPI bus (R14). -/
theorem Inv.busUnclaimed (h : Inv s) (ho : s.isOpen = true) :
    s.gpioClaim.getLsbD s.par.sckPin = false ∧ s.gpioClaim.getLsbD s.par.mosiPin = false ∧
      s.gpioClaim.getLsbD s.par.misoPin = false ∧ ∀ k, k < s.csCount.toNat → s.gpioClaim.getLsbD (s.par.csPin k) = false := by
  simp only [getLsbD_gpioClaim s h.width, h.ledgerSck ho, h.ledgerMosi ho, h.ledgerMiso ho]
  refine ⟨by simp, by simp, by simp, fun k hk => ?_⟩
  simp [h.ledgerCs ho k hk]

theorem Inv.claim_lt (h : Inv s) {p : Nat} (hp : s.gpioClaim.getLsbD p = true) : p < s.par.w := by
  rw [getLsbD_gpioClaim s h.width] at hp
  simp at hp; exact hp.1

theorem Inv.dir_claim (h : Inv s) {p : Nat} (hp : s.dir.getLsbD p = true) : s.gpioClaim.getLsbD p = true :=
  (subset_iff _ _).1 h.dirClaimed p hp

/-! ### Congruence -/

/-- `Inv` is about the registers, `OE` and the latches of pins that do not exist. -/
theorem Inv.congr (h : Inv s) (hr : SameRegisters s t) (ho : t.oe = s.oe) (hd : ∀ p, s.par.w ≤ p → t.drv.getLsbD p = false) :
    Inv t := by
  obtain ⟨h1, h2, h3, h4, h5, h6, h7, h8⟩ := hr
  have hg : t.gpioClaim = s.gpioClaim := by simp [State.gpioClaim, State.ownerOf, h4, h1]
  have hw : ∀ p, t.ownerOf p = s.ownerOf p := fun p => by simp [State.ownerOf, h4]
  have hpt : ∀ k, t.portAt k = s.portAt k := fun k => by simp [State.portAt, h6]
  obtain ⟨a1, a2, a3, a4, a5, a6, a7, a8, a9, a10, a11, a12, a13, a14, a15, a16, a17, a18⟩ := h
  constructor <;> simp only [h1, h2, h3, h4, h5, h6, h7, h8, hg, hw, hpt, ho]
  all_goals first | assumption | skip
  exact fun p hp => ⟨hd p hp, (a16 p hp).2⟩

/-- `PinInv` is about the registers, the latches, `ACTIVE_CS` and the sequencer's position. -/
theorem PinInv.congr (h : PinInv s) (hr : SameRegisters s t) (ho : t.oe = s.oe) (hd : t.drv = s.drv)
    (ha : t.activeCs = s.activeCs) (hs : t.seq = s.seq) : PinInv t := by
  obtain ⟨h1, h2, h3, h4, h5, h6, h7, h8⟩ := hr
  have hg : t.gpioClaim = s.gpioClaim := by simp [State.gpioClaim, State.ownerOf, h4, h1]
  have hw : ∀ p, t.ownerOf p = s.ownerOf p := fun p => by simp [State.ownerOf, h4]
  obtain ⟨a1, a2, a3, a4, a5, a6, a7, a8⟩ := h
  constructor <;> simp only [h1, h2, h3, h7, h8, hg, hw, ho, hd, ha, hs] <;> assumption

theorem SameRegisters.refl (s : State) : SameRegisters s s := ⟨rfl, rfl, rfl, rfl, rfl, rfl, rfl, rfl⟩

/-- A state that differs in the ports to the outside and the model's own fields only. -/
theorem Good.congr (h : Good s) (hr : SameRegisters s t) (ho : t.oe = s.oe) (hd : t.drv = s.drv) (ha : t.activeCs = s.activeCs)
    (hs : t.seq = s.seq) (hf : t.faulted = s.faulted) : Good t :=
  ⟨h.1.congr hr ho fun p hp => by rw [hd]; exact (h.1.noPin p hp).1, fun h' => (h.2 (hf ▸ h')).congr hr ho hd ha hs⟩

theorem Good.raise (h : Good s) (e : ErrorClass) : Good (s.raise e) :=
  h.congr ⟨rfl, rfl, rfl, rfl, rfl, rfl, rfl, rfl⟩ rfl rfl rfl rfl rfl

theorem Good.answer (h : Good s) (r : Response) : Good (s.answer r) :=
  h.congr ⟨rfl, rfl, rfl, rfl, rfl, rfl, rfl, rfl⟩ rfl rfl rfl rfl rfl

theorem Good.record (h : Good s) (o : Option Bool) : Good (s.record o) :=
  h.congr ⟨rfl, rfl, rfl, rfl, rfl, rfl, rfl, rfl⟩ rfl rfl rfl rfl rfl

/-- Asking the link or the device changes nothing that the invariants see. -/
theorem Inv.linkAsked (h : Inv s) : Inv s.linkAsked :=
  h.congr ⟨rfl, rfl, rfl, rfl, rfl, rfl, rfl, rfl⟩ rfl fun p hp => (h.noPin p hp).1

theorem Good.linkAsked (h : Good s) : Good s.linkAsked :=
  h.congr ⟨rfl, rfl, rfl, rfl, rfl, rfl, rfl, rfl⟩ rfl rfl rfl rfl rfl

theorem Good.deviceAsked (h : Good s) : Good s.deviceAsked :=
  h.congr ⟨rfl, rfl, rfl, rfl, rfl, rfl, rfl, rfl⟩ rfl rfl rfl rfl rfl

/-! ### Closed and opened -/

/-- A block at the table of R35 with well-sized tables meets the whole invariant. -/
theorem Good.of_atReset (h : AtReset s) (hv : s.par.valid = true) (ho : s.owner.length = s.par.w)
    (hp : s.ports.length = s.par.csMax) : Good s := by
  obtain ⟨r1, r2, r3, r4, r5, r6, r7, r8, r9, r10, r11⟩ := h
  constructor
  · constructor <;> simp_all
  · intro _
    constructor <;> simp_all

theorem atReset_resetWith (c : Params) : AtReset (State.resetWith c) := by
  constructor <;> simp [State.resetWith, State.portAt, State.ownerOf, Port.reset, Seq.reset]

theorem good_resetWith {c : Params} (h : c.valid = true) : Good (State.resetWith c) :=
  Good.of_atReset (atReset_resetWith c) h (by simp [State.resetWith]) (by simp [State.resetWith])

theorem good_resetInside (k : Nat) (h : s.par.valid = true) : Good (resetInside k s t) :=
  (good_resetWith h).congr ⟨rfl, rfl, rfl, rfl, rfl, rfl, rfl, rfl⟩ rfl rfl rfl rfl rfl

theorem atReset_closeBlock (s : State) : AtReset s.closeBlock := by
  constructor <;> simp [State.closeBlock, State.portAt, State.ownerOf]
  intro k; simpa using congrArg Port.valid (portAt_invalidatePorts s.ports k)

theorem good_closeBlock (h : Inv s) : Good s.closeBlock :=
  Good.of_atReset (atReset_closeBlock s) h.parValid (by simp [State.closeBlock])
    (by simp [State.closeBlock, invalidatePorts, h.portsLength])

theorem ownerOf_openBlock (n : BitVec 8) (s : State) (p : Nat) :
    (s.openBlock n).ownerOf p = if p < s.par.w then roleAt s.par n.toNat p else .free := getD_map_range _ _ _

theorem openBlock_oe (n : BitVec 8) (h : s.par.w ≤ 16) (p : Nat) :
    (s.openBlock n).oe.getLsbD p = (decide (p < s.par.w) && roleDriven (roleAt s.par n.toNat p)) := getLsbD_pinsWhere _ _ _ h

theorem openBlock_drv (n : BitVec 8) (h : s.par.w ≤ 16) (p : Nat) :
    (s.openBlock n).drv.getLsbD p = (decide (p < s.par.w) && roleLevel s.par (roleAt s.par n.toNat p)) :=
  getLsbD_pinsWhere _ _ _ h

theorem good_openBlock {n : BitVec 8} (h : Good s) (h1 : 1 ≤ n.toNat) (hn : n.toNat ≤ s.par.csMax) : Good (s.openBlock n) := by
  have hv := (Params.valid_iff _).1 h.1.parValid
  have hw : s.par.w ≤ 16 := h.1.width
  have hcs : ∀ k, k < n.toNat → s.par.csPin k < s.par.w := fun k hk => by simp only [Params.csPin]; omega
  have hrole := fun k (hk : k < n.toNat) => roleAt_csPin h.1.parValid hk hn
  have hvalid : ∀ k, ((s.openBlock n).portAt k).valid = false := fun k =>
    congrArg Port.valid (portAt_invalidatePorts s.ports k)
  have e1 : s.par.mosiPin ≠ s.par.sckPin := by omega
  have e2 : s.par.misoPin ≠ s.par.sckPin := by omega
  have e3 : s.par.misoPin ≠ s.par.mosiPin := by omega
  have hclaim : (s.openBlock n).gpioClaim = 0#16 := by
    refine pinWord_ext fun p _ => ?_
    rw [getLsbD_gpioClaim (s.openBlock n) hw, ownerOf_openBlock, BitVec.getLsbD_zero]
    split
    · simp [roleAt_ne_gpio]
    · simp
  refine ⟨⟨h.1.parValid, by simp [State.openBlock], by simp [State.openBlock, invalidatePorts, h.1.portsLength], ?_, fun _ => ⟨h1, hn⟩,
    ?_, ?_, ?_, ?_, ?_, ?_, ?_, ?_, ?_, ?_, ?_, ?_, ?_⟩, fun hf => ⟨?_, rfl, ?_, ?_, ?_, ?_, ?_, ?_⟩⟩
  · intro hc; cases hc
  · intro hc; cases hc
  · intro _; exact (ownerOf_openBlock n s s.par.sckPin).trans (by simp [roleAt, hv])
  · intro _; exact (ownerOf_openBlock n s s.par.mosiPin).trans (by simp [roleAt, hv, e1])
  · intro _; exact (ownerOf_openBlock n s s.par.misoPin).trans (by simp [roleAt, hv, e2, e3])
  · intro _ k hk; exact (ownerOf_openBlock n s (s.par.csPin k)).trans (by rw [if_pos (hcs k hk), hrole k hk])
  · intro _ p hp p1 p2 p3 p4
    exact (ownerOf_openBlock n s p).trans (by rw [if_pos (show p < s.par.w from hp), show roleAt s.par n.toNat p = .free from roleAt_other p1 p2 p3 p4]; rfl)
  · intro hg; cases hg
  · intro k hk; rw [hvalid k] at hk; cases hk
  · show 0#16 &&& _ = 0#16; simp
  · show 0#16 &&& _ = 0#16; simp
  · intro p hp
    have hp' : ¬ p < s.par.w := Nat.not_lt.2 hp
    rw [openBlock_oe n hw, openBlock_drv n hw]; simp [hp']
  · exact (openBlock_oe n hw s.par.misoPin).trans (by simp [roleAt, e2, e3, roleDriven])
  · intro _
    refine ⟨(openBlock_oe n hw s.par.sckPin).trans (by simp [roleAt, hv, roleDriven]),
      (openBlock_oe n hw s.par.mosiPin).trans (by simp [roleAt, hv, e1, roleDriven]), fun k hk => ?_⟩
    exact (openBlock_oe n hw (s.par.csPin k)).trans (by rw [hrole k hk]; simp [roleDriven, hcs k hk])
  · exact (h.2 hf).seqIdle
  · intro hc; cases hc
  · intro _; exact (openBlock_drv n hw s.par.mosiPin).trans (by simp [roleAt, e1, roleLevel])
  · intro _ k hk; exact (openBlock_drv n hw (s.par.csPin k)).trans (by rw [hrole k hk]; simp [roleLevel, hcs k hk]; rfl)
  · intro p hp; rw [hclaim] at hp; simp at hp
  · intro p hp
    have : (s.openBlock n).dir = 0#16 := rfl
    rw [this] at hp; simp at hp
  · intro p hp hfree
    rw [ownerOf_openBlock, if_pos (show p < s.par.w from hp)] at hfree
    rw [openBlock_oe n hw, hfree]; simp [roleDriven]

/-! ### Ports and the bank -/

theorem good_setPort {q : Port} {k : Nat} (h : Good s) (ho : s.isOpen = true) (hk : k < s.csCount.toNat) (hq : q.valid = true)
    (h1 : 1 ≤ q.freq.toNat) (h2 : q.freq.toNat ≤ s.par.fMax) : Good { s with ports := s.ports.set k q } := by
  have hlen : k < s.ports.length := by rw [h.1.portsLength]; have := (h.1.countOpen ho).2; omega
  have hat : ∀ j, ({ s with ports := s.ports.set k q } : State).portAt j = if j = k then q else s.portAt j := by
    intro j
    by_cases e : j = k
    · subst e; simp [State.portAt, hlen]
    · simp only [State.portAt, List.getD_eq_getElem?_getD, List.getElem?_set_ne (Ne.symm e), e, if_false]
  obtain ⟨⟨a1, a2, a3, a4, a5, a6, a7, a8, a9, a10, a11, a12, a13, a14, a15, a16, a17, a18⟩, hp⟩ := h
  refine ⟨⟨a1, a2, by simpa using a3, a4, a5, a6, a7, a8, a9, a10, a11, ?_, ?_, a14, a15, a16, a17, a18⟩, fun hf => ?_⟩
  · intro hg
    obtain ⟨b1, j, b2, b3⟩ := a12 hg
    refine ⟨b1, j, b2, ?_⟩
    rw [hat]; split
    · exact hq
    · exact b3
  · intro j hj
    rw [hat] at hj ⊢
    by_cases e : j = k
    · rw [if_pos e]; exact ⟨e ▸ hk, h1, h2⟩
    · rw [if_neg e] at hj ⊢; exact a13 j hj
  · obtain ⟨b1, b2, b3, b4, b5, b6, b7, b8⟩ := hp hf
    exact ⟨b1, b2, b3, b4, b5, b6, b7, b8⟩

theorem good_claimGpio (h : Good s) (ho : s.isOpen = true) (hc : s.gpioClaimed = false)
    (hany : ∃ k, k < s.csCount.toNat ∧ (s.portAt k).valid = true) : Good s.claimGpio := by
  have hw := h.1.width
  have hown := ownerOf_claimGpio s
  have keep : ∀ p, s.ownerOf p ≠ .free → s.claimGpio.ownerOf p = s.ownerOf p := fun p hp => by rw [hown]; simp [hp]
  have hnew : ∀ p, s.claimGpio.gpioClaim.getLsbD p = true → p < s.par.w ∧ s.ownerOf p = .free := by
    intro p hp
    rw [getLsbD_gpioClaim s.claimGpio hw] at hp
    simp only [Bool.and_eq_true, decide_eq_true_eq, beq_iff_eq] at hp
    refine ⟨hp.1, ?_⟩
    by_contra hne
    have hg := hp.2
    rw [keep p hne] at hg
    by_cases e1 : p = s.par.sckPin
    · rw [e1, h.1.ledgerSck ho] at hg; cases hg
    by_cases e2 : p = s.par.mosiPin
    · rw [e2, h.1.ledgerMosi ho] at hg; cases hg
    by_cases e3 : p = s.par.misoPin
    · rw [e3, h.1.ledgerMiso ho] at hg; cases hg
    by_cases e4 : ∀ k, k < s.csCount.toNat → p ≠ s.par.csPin k
    · exact hne (by rw [h.1.ledgerRest ho p hp.1 e1 e2 e3 e4, hc]; rfl)
    · push Not at e4
      obtain ⟨k, hk, rfl⟩ := e4
      rw [h.1.ledgerCs ho k hk] at hg; cases hg
  refine ⟨⟨h.1.parValid, by simp [State.claimGpio, h.1.ownerLength], h.1.portsLength, h.1.countClosed, h.1.countOpen, ?_, ?_, ?_, ?_,
    ?_, ?_, fun _ => ⟨ho, hany⟩, h.1.portRange, ?_, ?_, h.1.noPin, h.1.misoUndriven, h.1.busDriven⟩, fun hf => ?_⟩
  · intro hcl; rw [show s.claimGpio.isOpen = s.isOpen from rfl, ho] at hcl; cases hcl
  · intro _
    have := h.1.ledgerSck ho
    exact (keep s.par.sckPin (by rw [this]; decide)).trans this
  · intro _
    have := h.1.ledgerMosi ho
    exact (keep s.par.mosiPin (by rw [this]; decide)).trans this
  · intro _
    have := h.1.ledgerMiso ho
    exact (keep s.par.misoPin (by rw [this]; decide)).trans this
  · intro _ k hk
    have := h.1.ledgerCs ho k hk
    exact (keep (s.par.csPin k) (by rw [this]; simp)).trans this
  · intro _ p hp p1 p2 p3 p4
    have := h.1.ledgerRest ho p hp p1 p2 p3 p4
    rw [hc] at this
    rw [hown, this]
    have hl : p < s.owner.length := by rw [h.1.ownerLength]; exact hp
    simp [hl, State.claimGpio]
  · show 0#16 &&& _ = 0#16; simp
  · show 0#16 &&& _ = 0#16; simp
  · obtain ⟨b1, b2, b3, b4, b5, b6, b7, b8⟩ := h.2 hf
    refine ⟨b1, b2, b3, b4, b5, ?_, ?_, ?_⟩
    · intro p hp
      obtain ⟨q1, q2⟩ := hnew p hp
      exact (b8 p q1 q2).trans (by show false = (0#16).getLsbD p; simp)
    · intro p hp
      rw [show s.claimGpio.dir = 0#16 from rfl] at hp; simp at hp
    · intro p hp hfree
      have hl : p < s.owner.length := by rw [h.1.ownerLength]; exact hp
      rw [hown] at hfree
      split at hfree
      · cases hfree
      · next hn => exact absurd ⟨hl, hfree⟩ hn

/-! ### Transfers -/

theorem good_xfer {k : Nat} (o : List Bool) (h : Good s) (ho : s.isOpen = true) (hk : k < s.csCount.toNat) : Good (xfer k o s).2 := by
  have hv := (Params.valid_iff _).1 h.1.parValid
  have hkm : k < s.par.csMax := by have := (h.1.countOpen ho).2; omega
  have hb := Params.busPins h.1.parValid hkm
  have hd := fun p => xfer_drv k o s p hb
  have hr : SameRegisters s (xfer k o s).2 := by constructor <;> simp
  have hcs : ∀ j, j < s.csCount.toNat → s.par.csPin j ≠ s.par.sckPin ∧ s.par.csPin j ≠ s.par.mosiPin := by
    intro j hj
    have hb := Params.busPins h.1.parValid (k := j) (by have := (h.1.countOpen ho).2; omega)
    exact ⟨hb.sckCs.symm, hb.mosiCs.symm⟩
  have hg : (xfer k o s).2.gpioClaim = s.gpioClaim := by simp [State.gpioClaim, State.ownerOf]
  have hw : ∀ p, (xfer k o s).2.ownerOf p = s.ownerOf p := fun p => by simp [State.ownerOf]
  refine ⟨h.1.congr hr (by simp) ?_, fun hf => ?_⟩
  · intro p hp
    have : s.par.csPin k < s.par.w := by simp only [Params.csPin]; omega
    rw [hd, if_neg (by omega), if_neg (by omega), if_neg (by omega)]
    exact (h.1.noPin p hp).1
  · obtain ⟨b1, b2, b3, b4, b5, b6, b7, b8⟩ := h.2 (by simpa using hf)
    constructor
    · simp
    · simp
    · intro hc; rw [xfer_isOpen, ho] at hc; cases hc
    · intro _; rw [xfer_par, hd, if_neg hb.sckMosi.symm, if_pos rfl]
    · intro _ j hj
      rw [xfer_csCount] at hj
      rw [xfer_par, hd, if_neg (hcs j hj).1, if_neg (hcs j hj).2]
      split
      · rfl
      · exact b5 ho j hj
    · intro p hp; rw [hg] at hp; rw [xfer_oe, xfer_dir]; exact b6 p hp
    · intro p hp
      rw [xfer_dir] at hp
      have hcl := h.1.dir_claim hp
      obtain ⟨u1, u2, -, u4⟩ := h.1.busUnclaimed ho
      rw [hd, xfer_out, if_neg (fun e => by rw [e, u1] at hcl; cases hcl), if_neg (fun e => by rw [e, u2] at hcl; cases hcl),
        if_neg (fun e => by rw [e, u4 k hk] at hcl; cases hcl)]
      exact b7 p hp
    · intro p hp hfree
      rw [xfer_par] at hp; rw [hw] at hfree; rw [xfer_oe]; exact b8 p hp hfree

/-! ### A broken link -/

theorem inv_linkFailure {a b : PinWord} (h : Inv s) (ho : s.isOpen = true) (ha : ∀ p, a.getLsbD p = true → p < s.par.w)
    (hb : ∀ p, b.getLsbD p = true → s.gpioClaim.getLsbD p = true) : Inv (s.linkFailure a b) := by
  have hoe : ∀ p, (s.linkFailure a b).oe.getLsbD p = if b.getLsbD p then (Config.freeEnable s.fresh).getLsbD p else s.oe.getLsbD p :=
    fun p => getLsbD_mergePins _ _ _ _
  have hdr : ∀ p, (s.linkFailure a b).drv.getLsbD p = if a.getLsbD p then (Config.freeDrive s.fresh).getLsbD p else s.drv.getLsbD p :=
    fun p => getLsbD_mergePins _ _ _ _
  have hno : ∀ p, s.gpioClaim.getLsbD p = false → (s.linkFailure a b).oe.getLsbD p = s.oe.getLsbD p := by
    intro p hp
    rw [hoe, if_neg]
    intro hbp; rw [hb p hbp] at hp; cases hp
  obtain ⟨u1, u2, u3, u4⟩ := h.busUnclaimed ho
  obtain ⟨a1, a2, a3, a4, a5, a6, a7, a8, a9, a10, a11, a12, a13, a14, a15, a16, a17, a18⟩ := id h
  refine ⟨a1, a2, a3, a4, a5, a6, a7, a8, a9, a10, a11, a12, a13, a14, a15, ?_, (hno _ u3).trans a17, fun _ => ?_⟩
  · intro p hp
    constructor
    · rw [hdr, if_neg]
      · exact (a16 p hp).1
      · intro hap; have := ha p hap; have hp : s.par.w ≤ p := hp; omega
    · rw [hoe, if_neg]
      · exact (a16 p hp).2
      · intro hbp; have := h.claim_lt (hb p hbp); have hp : s.par.w ≤ p := hp; omega
  · obtain ⟨c1, c2, c3⟩ := a18 ho
    exact ⟨(hno _ u1).trans c1, (hno _ u2).trans c2, fun k hk => (hno _ (u4 k hk)).trans (c3 k hk)⟩

theorem good_linkFailure {a b : PinWord} (h : Inv s) (ho : s.isOpen = true) (ha : ∀ p, a.getLsbD p = true → p < s.par.w)
    (hb : ∀ p, b.getLsbD p = true → s.gpioClaim.getLsbD p = true) : Good (s.linkFailure a b) :=
  ⟨inv_linkFailure h ho ha hb, fun hf => by cases hf⟩

theorem Inv.spiClaim_lt (h : Inv s) {p : Nat} (hp : s.spiClaim.getLsbD p = true) : p < s.par.w := by
  rw [getLsbD_spiClaim s h.width] at hp
  simp at hp; exact hp.1

/-! ### GPIO operations -/

theorem getLsbD_newDir (d m o : PinWord) (p : Nat) :
    (newDir d m o).getLsbD p = if m.getLsbD p then o.getLsbD p else d.getLsbD p := by
  by_cases hp : p < 16
  · simp only [newDir, BitVec.getLsbD_or, BitVec.getLsbD_and, BitVec.getLsbD_not, hp, decide_true, Bool.true_and]
    cases m.getLsbD p <;> simp
  · simp [BitVec.getLsbD_of_ge _ p (show 16 ≤ p by omega)]

theorem good_setDirection {m : PinWord} (o : PinWord) (h : Good s) (ho : s.isOpen = true)
    (hm : ∀ p, m.getLsbD p = true → s.gpioClaim.getLsbD p = true) : Good (s.setDirection m o) := by
  have hdir : ∀ p, (s.setDirection m o).dir.getLsbD p = if m.getLsbD p then o.getLsbD p else s.dir.getLsbD p :=
    getLsbD_newDir _ _ _
  have hout : ∀ p, (s.setDirection m o).out.getLsbD p = (s.out.getLsbD p && (s.setDirection m o).dir.getLsbD p) :=
    fun p => BitVec.getLsbD_and
  have hoe : ∀ p, (s.setDirection m o).oe.getLsbD p = if m.getLsbD p then (s.setDirection m o).dir.getLsbD p else s.oe.getLsbD p :=
    fun p => getLsbD_mergePins _ _ _ _
  have hdrv : ∀ p, (s.setDirection m o).drv.getLsbD p
      = if m.getLsbD p && (s.setDirection m o).dir.getLsbD p then (s.setDirection m o).out.getLsbD p else s.drv.getLsbD p := by
    intro p; rw [← BitVec.getLsbD_and]; exact getLsbD_mergePins _ _ _ _
  have hg : (s.setDirection m o).gpioClaim = s.gpioClaim := rfl
  have off : ∀ p, s.gpioClaim.getLsbD p = false → m.getLsbD p = false := by
    intro p hp
    by_contra hne
    rw [hm p (by simpa using hne)] at hp; cases hp
  have hoeOff : ∀ p, s.gpioClaim.getLsbD p = false → (s.setDirection m o).oe.getLsbD p = s.oe.getLsbD p := fun p hp => by
    rw [hoe, off p hp]; rfl
  have hdrOff : ∀ p, s.gpioClaim.getLsbD p = false → (s.setDirection m o).drv.getLsbD p = s.drv.getLsbD p := fun p hp => by
    rw [hdrv, off p hp]; simp
  obtain ⟨u1, u2, u3, u4⟩ := h.1.busUnclaimed ho
  have hlt : ∀ p, s.par.w ≤ p → s.gpioClaim.getLsbD p = false := by
    intro p hp
    by_contra hne
    have := h.1.claim_lt (p := p) (by simpa using hne); omega
  obtain ⟨a1, a2, a3, a4, a5, a6, a7, a8, a9, a10, a11, a12, a13, a14, a15, a16, a17, a18⟩ := id h.1
  refine ⟨⟨a1, a2, a3, a4, a5, a6, a7, a8, a9, a10, a11, a12, a13, ?_, ?_, ?_, (hoeOff _ u3).trans a17, fun _ => ?_⟩, fun hf => ?_⟩
  · rw [subset_iff, hg]
    intro p hp
    rw [hdir] at hp
    cases hmp : m.getLsbD p with
    | true => exact hm p hmp
    | false => rw [hmp] at hp; exact h.1.dir_claim (by simpa using hp)
  · rw [subset_iff]
    intro p hp
    rw [hout] at hp
    simp at hp; exact hp.2
  · intro p hp
    exact ⟨(hdrOff p (hlt p hp)).trans (a16 p hp).1, (hoeOff p (hlt p hp)).trans (a16 p hp).2⟩
  · obtain ⟨c1, c2, c3⟩ := a18 ho
    exact ⟨(hoeOff _ u1).trans c1, (hoeOff _ u2).trans c2, fun k hk => (hoeOff _ (u4 k hk)).trans (c3 k hk)⟩
  · obtain ⟨b1, b2, b3, b4, b5, b6, b7, b8⟩ := h.2 hf
    refine ⟨b1, b2, ?_, fun _ => (hdrOff _ u2).trans (b4 ho), fun _ k hk => (hdrOff _ (u4 k hk)).trans (b5 ho k hk), ?_, ?_, ?_⟩
    · intro hc; rw [show (s.setDirection m o).isOpen = s.isOpen from rfl, ho] at hc; cases hc
    · intro p hp
      rw [hg] at hp
      rw [hoe, hdir]
      cases hmp : m.getLsbD p with
      | true => simp
      | false => simpa using b6 p hp
    · intro p hp
      rw [hdrv, hp, hout, hp]
      cases hmp : m.getLsbD p with
      | true => simp
      | false =>
        rw [hdir, hmp] at hp
        simpa using b7 p (by simpa using hp)
    · intro p hp hfree
      have : s.gpioClaim.getLsbD p = false := by
        rw [getLsbD_gpioClaim s h.1.width, show s.ownerOf p = .free from hfree]; simp
      exact (hoeOff p this).trans (b8 p hp hfree)

theorem good_writeBank (v : PinWord) (h : Good s) (ho : s.isOpen = true) : Good (s.writeBank v) := by
  have hout : ∀ p, (s.writeBank v).out.getLsbD p = if s.dir.getLsbD p then v.getLsbD p else s.out.getLsbD p :=
    fun p => getLsbD_mergePins _ _ _ _
  have hdrv : ∀ p, (s.writeBank v).drv.getLsbD p = if s.dir.getLsbD p then v.getLsbD p else s.drv.getLsbD p :=
    fun p => getLsbD_mergePins _ _ _ _
  have off : ∀ p, s.gpioClaim.getLsbD p = false → (s.writeBank v).drv.getLsbD p = s.drv.getLsbD p := by
    intro p hp
    rw [hdrv, if_neg]
    intro hd; rw [h.1.dir_claim hd] at hp; cases hp
  obtain ⟨u1, u2, u3, u4⟩ := h.1.busUnclaimed ho
  obtain ⟨a1, a2, a3, a4, a5, a6, a7, a8, a9, a10, a11, a12, a13, a14, a15, a16, a17, a18⟩ := id h.1
  refine ⟨⟨a1, a2, a3, a4, a5, a6, a7, a8, a9, a10, a11, a12, a13, a14, ?_, ?_, a17, a18⟩, fun hf => ?_⟩
  · rw [subset_iff]
    intro p hp
    show s.dir.getLsbD p = true
    rw [hout] at hp
    cases hd : s.dir.getLsbD p with
    | true => rfl
    | false =>
      rw [hd] at hp
      rw [← hd]; exact (subset_iff _ _).1 a15 p (by simpa using hp)
  · intro p hp
    refine ⟨(off p ?_).trans (a16 p hp).1, (a16 p hp).2⟩
    by_contra hne
    have := h.1.claim_lt (p := p) (by simpa using hne)
    have hp : s.par.w ≤ p := hp
    omega
  · obtain ⟨b1, b2, b3, b4, b5, b6, b7, b8⟩ := h.2 hf
    refine ⟨b1, b2, ?_, fun _ => (off _ u2).trans (b4 ho), fun _ k hk => (off _ (u4 k hk)).trans (b5 ho k hk), b6, ?_, b8⟩
    · intro hc; rw [show (s.writeBank v).isOpen = s.isOpen from rfl, ho] at hc; cases hc
    · intro p hp
      have hp : s.dir.getLsbD p = true := hp
      rw [hdrv, hout, hp]; rfl

theorem good_samplePins (m : PinWord) (h : Good s) : Good (s.samplePins m).2 :=
  h.congr (by constructor <;> simp) (by simp) (by simp) (by simp) (by simp) (by simp)

end Sys2Proof.Machine
end

