-- ==== Sys2Proof/Tests/Slice0.lean ====
section
/-! SUPPORT. The model's own tests. Expected words, answers and levels are those of the spec's worked examples (the operation
rules and 95_test_vectors.md), or worked out by hand from the rules; then the witnesses: states and operands that meet the
hypotheses of each statement. -/

namespace Sys2Proof.Tests.Slice0

open Sys2Proof Sys2Proof.Machine

/-! ### Helpers -/

/-- The state of an outcome that is a next state. -/
def stateOf : Host.Outcome State Fault Refusal → Option State
  | .next s => some s
  | .fault _ => none
  | .refused _ => none

/-- The response of an outcome. -/
def answerOf (o : Host.Outcome State Fault Refusal) : Option Response := (stateOf o).bind (·.rsp)

/-- Something read off the next state. -/
def seen {α : Type} (f : State → α) (o : Host.Outcome State Fault Refusal) : Option α := (stateOf o).map f

/-- A state whose command port holds these bytes. -/
def given (bytes : List Byte) (s : State) : State := { s with cmdIn := bytes }

/-- The block after reset, its device present and its link up for the operations to come (R32 (d), (e)). -/
def plugged : State := { State.reset with device := ⟨[true, true], 0⟩, link := ⟨[true, true, true, true], 0⟩ }

/-- CONFIGURE with two chip-selects has run. -/
def opened : State := plugged.openBlock 2#8

/-- GET_PORT has run on index 0: mode 0, MSB first. -/
def ported : State := { opened with ports := opened.ports.set 0 ⟨true, .mode0, .msbFirst, 1000000#32⟩ }

/-- GET_GPIO has run. -/
def banked : State := ported.claimGpio

/-- Pins 5 and 6 are outputs, pin 7 an input. -/
def demo : State := banked.setDirection 0x00E0#16 0x0060#16

/-- `demo` with the link down. -/
def down : State := { demo with link := ⟨[false, false], 0⟩ }

/-- `demo` after a TransportError. -/
def broken : State := { demo with faulted := true }

/-- `demo` with answers of the environment lined up. -/
def answered (ws : List PinWord) : State := { demo with envIn := ws }

/-! ### Well-formedness -/

theorem test_wellFormed_refuses_long_write : (Instr.spiWrite 0#8 (List.replicate 65536 0#8) 0#8).wellFormed = false :=
  decide_eq_false (by rw [Instr.payload, List.length_replicate]; decide)

theorem test_wellFormed_refuses_long_exchange :
    (Instr.spiExchange 0#8 (List.replicate 65536 0#8) 0#16 false 0#8).wellFormed = false :=
  decide_eq_false (by rw [Instr.payload, List.length_replicate]; decide)

theorem test_wellFormed_admits_longest_write : (Instr.spiWrite 0#8 (List.replicate 65535 0#8) 0#8).wellFormed = true :=
  decide_eq_true (by rw [Instr.payload, List.length_replicate]; decide)

/-! ### Decoding: words of the rules' examples -/

theorem test_decode_configure : decodeTableWord 64 0x0100000000000002 = some (.configure 2#8) := by decide

theorem test_decode_getPort : decodeTableWord 64 0x02010700005B8D80 = some (.getPort 1#8 6000000#32 .mode3 .lsbFirst) := by decide

theorem test_decode_getGpio : decodeTableWord 64 0x0300000000000000 = some .getGpio := by decide

theorem test_decode_terminate : decodeTableWord 64 0x0400000000000000 = some .terminate := by decide

theorem test_decode_spiWrite :
    decode [0x00#8, 0x00#8, 0x01#8, 0x00#8, 0x00#8, 0x03#8, 0x00#8, 0x10#8, 0x0F#8] = .command (.spiWrite 0#8 [0x0F#8] 3#8) [] := by
  decide

theorem test_decode_spiRead : decodeTableWord 64 0x1100050000000002 = some (.spiRead 0#8 2#16 5#8) := by decide

theorem test_decode_spiExchange :
    decode [0x00#8, 0x00#8, 0x02#8, 0x00#8, 0x01#8, 0x02#8, 0x00#8, 0x12#8, 0xFF#8, 0xCF#8]
      = .command (.spiExchange 0#8 [0xFF#8, 0xCF#8] 0#16 true 2#8) [] := by decide

theorem test_decode_gpioSetDirection :
    decodeTableWord 64 0x2000000000E00060 = some (.gpioSetDirection 0x00E0#16 0x0060#16) := by decide

theorem test_decode_gpioWrite : decodeTableWord 64 0x2100000000000040 = some (.gpioWrite 0x0040#16) := by decide

theorem test_decode_gpioRead : decodeTableWord 64 0x2200000000000000 = some .gpioRead := by decide

/-- An opcode outside the ten, and a must-be-zero bit of GET_PORT (bit 43) set (R69). -/
theorem test_decode_illegal :
    decodeTableWord 64 0x0500000000000000 = none ∧ decodeTableWord 64 0x02000800000F4240 = none ∧
      decode [0#8, 0#8, 0#8, 0#8, 0#8, 0#8, 0#8, 5#8] = .unassignedOpcode 5#8 [] ∧
      decode [1#8, 0#8, 0#8, 0#8, 0#8, 0#8, 0#8, 4#8] = .reservedField 4#8 [] := by decide

theorem test_encode_spiWrite :
    encode (.spiWrite 0#8 [0x0F#8] 3#8) = [0x00#8, 0x00#8, 0x01#8, 0x00#8, 0x00#8, 0x03#8, 0x00#8, 0x10#8, 0x0F#8] := by decide

/-! ### One step of each operation: the examples of the rules -/

/-- R80: `OE = 0b00011011`, `DRV = 0b00011000`, the ledger, response 0. -/
theorem test_configure_from_reset :
    seen (fun s => (s.oe, s.drv, s.owner, s.csCount)) (step (plugged.withFetchWord 64 0x0100000000000002))
        = some (0x001B#16, 0x0018#16, [.sck, .mosi, .miso, .cs 0, .cs 1, .free, .free, .free], 2#8) ∧
      answerOf (step (plugged.withFetchWord 64 0x0100000000000002)) = some ⟨0x00000000#32, []⟩ := by decide

/-- R80: more chip-selects than there are pins for. -/
theorem test_configure_too_many :
    answerOf (step (State.reset.withFetchWord 64 0x0100000000000006)) = some ⟨0x01000000#32, []⟩ := by decide

/-- R82. -/
theorem test_getPort_example :
    seen (fun s => s.portAt 1) (step (opened.withFetchWord 64 0x02010700005B8D80)) = some ⟨true, .mode3, .lsbFirst, 6000000#32⟩ ∧
      answerOf (step (opened.withFetchWord 64 0x02010700005B8D80)) = some ⟨0x00000001#32, []⟩ := by decide

/-- R82: `freq = 0` is not positive; index 2 is not below `CS_COUNT`. -/
theorem test_getPort_refused :
    answerOf (step (opened.withFetchWord 64 0x0200000000000000)) = some ⟨0x01000000#32, []⟩ ∧
      answerOf (step (opened.withFetchWord 64 0x02020000000F4240)) = some ⟨0x01000000#32, []⟩ := by decide

/-- R84: pins 5 to 7 are claimed. -/
theorem test_getGpio_example :
    answerOf (step (ported.withFetchWord 64 0x0300000000000000)) = some ⟨0x000000E0#32, []⟩ ∧
      seen (fun s => (s.ownerOf 4, s.ownerOf 5, s.ownerOf 7)) (step (ported.withFetchWord 64 0x0300000000000000))
        = some (.cs 1, .gpio, .gpio) := by decide

/-- R84: before any port exists. -/
theorem test_getGpio_no_port :
    answerOf (step (opened.withFetchWord 64 0x0300000000000000)) = some ⟨0x01000000#32, []⟩ := by decide

/-- R86. -/
theorem test_terminate_releases :
    seen (fun s => (s.oe, s.drv, s.isOpen, s.dir)) (step (demo.withFetchWord 64 0x0400000000000000))
      = some (0#16, 0#16, false, 0#16) := by decide

/-- R140: data out carries 0,0,0,0,1,0,0,0. -/
theorem test_spiWrite_example :
    seen (fun s => (mosiAtSamples Params.default (newEvents demo s), s.rsp))
        (step (given [0x00#8, 0x00#8, 0x01#8, 0x00#8, 0x00#8, 0x03#8, 0x00#8, 0x10#8, 0x0F#8] (answered (List.replicate 8 0#16))))
      = some ([false, false, false, false, true, false, false, false], some ⟨0x00000000#32, []⟩) := by decide

/-- R128: no byte gives a select pulse and no clock: T1, T2, T4, T5, the select (pin 3) low after T2 only. -/
theorem test_spiWrite_empty :
    seen (fun s => (newEvents demo s).map fun e => (e.view Params.default 0).map (·.select))
        (step (demo.withFetchWord 64 0x1000000000000000))
      = some [some true, some false, some true, some true] := by decide

/-- R142: MISO 1 at every sample; the low five bits of the last byte come back 0. -/
theorem test_spiRead_example :
    answerOf (step ((answered (List.replicate 16 0xFFFF#16)).withFetchWord 64 0x1100050000000002))
      = some ⟨0x00000002#32, [0xFF#8, 0xE0#8]⟩ := by decide

/-- R144, R145: what data out carried (0xFF, 0xCC) comes back on MISO, pin 2. -/
theorem test_spiExchange_example :
    answerOf (step (given [0x00#8, 0x00#8, 0x02#8, 0x00#8, 0x01#8, 0x02#8, 0x00#8, 0x12#8, 0xFF#8, 0xCF#8]
        (answered (List.replicate 10 4#16 ++ [0#16, 0#16, 4#16, 4#16, 0#16, 0#16]))))
      = some ⟨0x00000002#32, [0xFF#8, 0xCC#8]⟩ := by decide

/-- R125, 95_test_vectors.md Q1 and Q7: mode 0, 0xA6 over a wire; of Q1's 28 micro-steps the environment does not see T1, T3a of
bits 4 and 6, and T5. Clock, data out and select as it sees them. -/
theorem test_spiExchange_seen :
    seen (fun s => (environmentView (some ported.pins) (newEvents ported s)).map fun v =>
          match v with
          | .pins p => some (p.drv.getLsbD 0, p.drv.getLsbD 1, p.drv.getLsbD 3)
          | .unknown => none)
        (step (given [0x00#8, 0x00#8, 0x01#8, 0x00#8, 0x01#8, 0x00#8, 0x00#8, 0x12#8, 0xA6#8]
          { ported with envIn := [4#16, 0#16, 4#16, 0#16, 0#16, 4#16, 4#16, 0#16] }))
      = some ([(false, false, false),
          (false, true, false), (true, true, false), (false, true, false),
          (false, false, false), (true, false, false), (false, false, false),
          (false, true, false), (true, true, false), (false, true, false),
          (false, false, false), (true, false, false), (false, false, false),
          (true, false, false), (false, false, false),
          (false, true, false), (true, true, false), (false, true, false),
          (true, true, false), (false, true, false),
          (false, false, false), (true, false, false), (false, false, false),
          (false, false, true)].map some) := by decide

/-- R125, R213, R160: CONFIGURE with two chip-selects drives pins 0, 1, 3 and 4 with the selects at 1, and GPIO_SET_DIRECTION pins 5
and 6; the environment sees nothing else since reset. A reset is seen as every pin undriven. -/
theorem test_environmentView :
    demo.environmentView = [.pins ⟨0x0018#16, 0x001B#16⟩, .pins ⟨0x0018#16, 0x007B#16⟩] ∧
      seen State.environmentView (step { demo with resetIn := some 0 })
        = some [.pins ⟨0x0018#16, 0x001B#16⟩, .pins ⟨0x0018#16, 0x007B#16⟩, .pins ⟨0#16, 0#16⟩] := by decide

set_option maxRecDepth 2000 in
/-- R144: half-duplex, `data_out = [0xA5]`, one byte read with `droptail = 4` while MISO is 1: the written byte goes out whole. -/
theorem test_spiExchange_halfDuplex :
    seen (fun s => (mosiAtSamples Params.default (newEvents demo s), s.rsp))
        (step (given [0x01#8, 0x00#8, 0x01#8, 0x00#8, 0x00#8, 0x04#8, 0x00#8, 0x12#8, 0xA5#8] (answered (List.replicate 16 0xFFFF#16))))
      = some ([true, false, true, false, false, true, false, true] ++ List.replicate 8 false, some ⟨0x00000001#32, [0xF0#8]⟩) := by
  decide

/-- R160. -/
theorem test_gpioSetDirection_example :
    seen (fun s => (s.dir, s.oe, s.drv, s.rsp)) (step (banked.withFetchWord 64 0x2000000000E00060))
      = some (0x0060#16, 0x007B#16, 0x0018#16, some ⟨0x00000000#32, []⟩) := by decide

/-- R160: pin 0 is the clock. -/
theorem test_gpioSetDirection_bus_pin :
    answerOf (step (banked.withFetchWord 64 0x2000000000E10060)) = some ⟨0x02000000#32, []⟩ := by decide

/-- R163. -/
theorem test_gpioWrite_example :
    seen (fun s => (s.out, s.drv, s.rsp)) (step (demo.withFetchWord 64 0x2100000000000040))
      = some (0x0040#16, 0x0058#16, some ⟨0x00000000#32, []⟩) := by decide

/-- R163: pin 7 is an input, pin 0 the clock. -/
theorem test_gpioWrite_conflict :
    answerOf (step (demo.withFetchWord 64 0x2100000000000080)) = some ⟨0x03000000#32, []⟩ ∧
      answerOf (step (demo.withFetchWord 64 0x2100000000000001)) = some ⟨0x03000000#32, []⟩ := by decide

/-- R166: `OUT = 0x40`, the environment holds pin 7 high. -/
theorem test_gpioRead_example :
    answerOf (step (((answered [0x0080#16]).writeBank 0x0040#16).withFetchWord 64 0x2200000000000000)) = some ⟨0x000000C0#32, []⟩ := by
  decide

/-! ### Errors, the link, reset, waiting -/

/-- R187: on a closed block a bad droptail comes first. -/
theorem test_droptail_before_open :
    answerOf (exec (.spiWrite 9#8 [0#8] 8#8) State.reset) = some ⟨0x02000000#32, []⟩ ∧
      answerOf (exec (.spiWrite 9#8 [0#8] 0#8) State.reset) = some ⟨0x01000000#32, []⟩ := by decide

/-- R112: droptail -1 and 8 are refused, 7 is not. -/
theorem test_droptail_range :
    answerOf (exec (.spiRead 0#8 1#16 0xFF#8) demo) = some ⟨0x02000000#32, []⟩ ∧
      answerOf (exec (.spiRead 0#8 1#16 8#8) demo) = some ⟨0x02000000#32, []⟩ ∧
      answerOf (exec (.spiRead 0#8 1#16 7#8) (answered (List.replicate 8 0xFFFF#16))) = some ⟨0x00000001#32, [0x80#8]⟩ := by decide

/-- R184: the answer, and the registers kept. -/
theorem test_link_down :
    seen (fun s => (s.rsp, s.isOpen, s.dir, s.out)) (exec (.gpioWrite 0x0020#16) down)
      = some (some ⟨0x04000000#32, []⟩, true, 0x0060#16, 0#16) := by decide

/-- R184: the link is asked once per operation: of two GPIO reads the second meets a link that has gone down. -/
theorem test_link_per_operation :
    (seen (fun t => (t.rsp, answerOf (exec .gpioRead t)))
        (exec .gpioRead { answered [0x0080#16] with link := ⟨[true, false], 0⟩ }))
      = some (some ⟨0x00000080#32, []⟩, some ⟨0x04000000#32, []⟩) := by decide

/-- R184, U2: after a TransportError TERMINATE runs and another command does not. -/
theorem test_after_transport_error :
    step (broken.withFetchWord 64 0x2200000000000000) = .fault .afterTransportError ∧
      step (broken.withFetchWord 64 0x0500000000000000) = .fault .afterTransportError ∧
      seen (fun s => (s.rsp, s.faulted, s.isOpen)) (step (broken.withFetchWord 64 0x0400000000000000))
        = some (some ⟨0x00000000#32, []⟩, false, false) := ⟨rfl, rfl, by decide⟩

/-- R55, R126: of the sequencer's position nothing outlasts a transfer. -/
theorem test_seq_after_transfer :
    seen (·.seq) (exec (.spiRead 0#8 1#16 0#8) (answered (List.replicate 8 0#16))) = some ⟨.idle, 0, 0, 0⟩ := by decide

/-- R69: an illegal word is answered and leaves the port. -/
theorem test_illegal_word :
    seen (fun s => (s.rsp, s.cmdIn)) (step (given [0#8, 0#8, 0#8, 0#8, 0#8, 0#8, 0#8, 0xFF#8] demo))
      = some (some ⟨0x02000000#32, []⟩, []) := by decide

/-- R211: reset after three micro-steps of a transfer: no response, nothing driven, three events and that of the reset. -/
theorem test_reset_inside :
    seen (fun s => (s.rsp, s.oe, s.isOpen, (newEvents demo s).length))
        (step { given [0x01#8, 0#8, 0#8, 0#8, 0#8, 0#8, 0#8, 0x11#8] (answered (List.replicate 8 0#16)) with resetIn := some 3 })
      = some (none, 0#16, false, 4) := by decide

/-- The modes of R120: idle level and phase. -/
theorem test_modes :
    [Mode.mode0, .mode1, .mode2, .mode3].map (fun m => (cpol m, cpha m))
      = [(false, false), (false, true), (true, false), (true, true)] := by decide

/-- R104: the examples of 0xA6. -/
theorem test_ser :
    ser .msbFirst 0xA6#8 = [true, false, true, false, false, true, true, false] ∧
      ser .lsbFirst 0xA6#8 = [false, true, true, false, false, true, false, true] := by decide

/-! ### The states used meet the invariant -/

theorem reset_good : Good State.reset := good_resetWith (by decide)

theorem plugged_good : Good plugged := reset_good.congr ⟨rfl, rfl, rfl, rfl, rfl, rfl, rfl, rfl⟩ rfl rfl rfl rfl rfl

theorem opened_good : Good opened := good_openBlock plugged_good (by decide) (by decide)

theorem ported_good : Good ported := good_setPort opened_good (by decide) (by decide) (by decide) (by decide) (by decide)

theorem banked_good : Good banked := good_claimGpio ported_good (by decide) (by decide) ⟨0, by decide, by decide⟩

theorem demo_good : Good demo :=
  good_setDirection _ banked_good (by decide) ((subset_iff _ _).1 (by decide))

theorem answered_good (ws : List PinWord) : Good (answered ws) :=
  demo_good.congr ⟨rfl, rfl, rfl, rfl, rfl, rfl, rfl, rfl⟩ rfl rfl rfl rfl rfl

theorem down_good : Good down := demo_good.congr ⟨rfl, rfl, rfl, rfl, rfl, rfl, rfl, rfl⟩ rfl rfl rfl rfl rfl

/-- A transfer on port 0 of the open block can run. -/
theorem answered_ready (ws : List PinWord) : PortReady 0#8 (answered ws) :=
  ⟨rfl, (by decide : (0#8).toNat < demo.csCount.toNat), rfl, rfl⟩

/-! ### Witnesses: the hypotheses of the statements can be met, at the ends of their ranges -/

theorem witness_AWordSelectsAtMostOneOperation :
    (0x01000000000000FF#64) &&& Op.mask .configure = Op.pattern .configure := by decide

theorem witness_DecodeInvertsEncode :
    (Instr.spiWrite 255#8 (List.replicate 65535 0xFF#8) 0x80#8).wellFormed = true ∧ (Instr.gpioRead).wellFormed = true :=
  ⟨decide_eq_true (by rw [Instr.payload, List.length_replicate]; decide), by decide⟩

theorem witness_EncodeInvertsDecode :
    decode [0x00#8, 0x00#8, 0x01#8, 0x00#8, 0x00#8, 0x03#8, 0x00#8, 0x10#8, 0x0F#8, 0x77#8]
      = .command (.spiWrite 0#8 [0x0F#8] 3#8) [0x77#8] := by decide

theorem witness_IllegalWordsAreAnswered_no_row :
    (given (wordBytes 0x0500000000000000#64 ++ [1#8]) demo).resetIn = none ∧
      (given (wordBytes 0x0500000000000000#64 ++ [1#8]) demo).cmdIn = wordBytes 0x0500000000000000#64 ++ [1#8] ∧
      (given (wordBytes 0x0500000000000000#64 ++ [1#8]) demo).faulted = false ∧
      (given (wordBytes 0x0500000000000000#64 ++ [1#8]) broken).faulted = true ∧
      ∀ o : Op, (0x0500000000000000#64) &&& o.mask ≠ o.pattern :=
  ⟨rfl, rfl, by decide, rfl, fun o => by cases o <;> decide⟩

theorem witness_IllegalWordsAreAnswered_row :
    (given (wordBytes 0x10FF800000010000#64 ++ [1#8]) demo).resetIn = none ∧
      (0x10FF800000010000#64) &&& Op.mask .spiWrite = Op.pattern .spiWrite ∧
      payloadLength .spiWrite 0x10FF800000010000#64 ≤ [1#8].length := by decide

theorem witness_StepRunsTheDecodedCommand :
    (given (encode .gpioRead) demo).resetIn = none ∧ decode (given (encode .gpioRead) demo).cmdIn = .command .gpioRead [] ∧
      demo.faulted = false := by decide

theorem witness_StepRunsTheDecodedCommand_faulted :
    (given (encode .gpioRead) broken).resetIn = none ∧ decode (given (encode .gpioRead) broken).cmdIn = .command .gpioRead [] ∧
      broken.faulted = true ∧ Instr.gpioRead ≠ .terminate := by decide

theorem witness_StepWaitsForAWholeCommand :
    State.reset.resetIn = none ∧ decode State.reset.cmdIn = .incomplete ∧
      decode [0x00#8, 0x00#8, 0x01#8, 0x00#8, 0x00#8, 0x03#8, 0x00#8, 0x10#8] = .incomplete := by decide

theorem witness_ResetInsideAnOperation :
    ∃ (s t : State), s.resetIn = some 3 ∧ decode s.cmdIn = .command (.spiWrite 0#8 [] 0#8) [] ∧ s.faulted = false ∧
      exec (.spiWrite 0#8 [] 0#8) { s with cmdIn := [] } = .next t ∧ (newEvents s t).length = 4 :=
  ⟨{ given (encode (.spiWrite 0#8 [] 0#8)) demo with resetIn := some 3 }, _, rfl, by decide, by decide, rfl, by decide⟩

/-- A reset while the block waits, and at an illegal word. -/
theorem witness_ResetInsideAnOperation_no_operation :
    ({ demo with resetIn := some 0 } : State).resetIn = some 0 ∧ decode ({ demo with resetIn := some 0 } : State).cmdIn = .incomplete ∧
      ({ given (wordBytes 0x0500000000000000#64) demo with resetIn := some 0 } : State).cmdIn
        = wordBytes 0x0500000000000000#64 ++ [] ∧ demo.faulted = false ∧
      ∀ o : Op, (0x0500000000000000#64) &&& o.mask ≠ o.pattern :=
  ⟨rfl, by decide, by decide, by decide, fun o => by cases o <;> decide⟩

/-- The four ways CONFIGURE fails, and the smallest and largest count that succeed. -/
theorem witness_ConfigureOpensTheBlock :
    State.reset.par.valid = true ∧ demo.par.valid = true ∧ demo.isOpen = true ∧ (0#8).toNat < 1 ∧ State.reset.par.csMax < (6#8).toNat ∧
      ({ State.reset with device := ⟨[false], 0⟩ } : State).devicePresent = false ∧ State.reset.isOpen = false ∧
      1 ≤ (1#8).toNat ∧ (1#8).toNat ≤ State.reset.par.csMax ∧ (5#8).toNat ≤ State.reset.par.csMax ∧
      plugged.devicePresent = true ∧ plugged.isOpen = false ∧ plugged.par.csMax = State.reset.par.csMax := by decide

theorem witness_GetPortCreatesTheDescriptor_error :
    Inv State.reset ∧ State.reset.isOpen = false ∧ Inv opened ∧ opened.csCount.toNat ≤ (2#8).toNat ∧ (0#32).toNat = 0 ∧
      opened.par.fMax < (30000001#32).toNat := ⟨reset_good.1, by decide, opened_good.1, by decide, by decide, by decide⟩

theorem witness_GetPortCreatesTheDescriptor_ok :
    Inv opened ∧ opened.isOpen = true ∧ (1#8).toNat < opened.csCount.toNat ∧ 1 ≤ (1#32).toNat ∧
      (30000000#32).toNat ≤ opened.par.fMax := ⟨opened_good.1, by decide, by decide, by decide, by decide⟩

theorem witness_GetGpioClaimsTheFreePins_closed : Inv State.reset ∧ State.reset.isOpen = false := ⟨reset_good.1, rfl⟩

theorem witness_GetGpioClaimsTheFreePins_again : Inv demo ∧ demo.isOpen = true ∧ demo.gpioClaimed = true :=
  ⟨demo_good.1, by decide, by decide⟩

theorem witness_GetGpioClaimsTheFreePins_no_port :
    Inv opened ∧ opened.isOpen = true ∧ opened.gpioClaimed = false ∧ ∀ k, k < opened.csCount.toNat → (opened.portAt k).valid = false :=
  ⟨opened_good.1, by decide, by decide, by decide⟩

theorem witness_GetGpioClaimsTheFreePins_first :
    Inv ported ∧ ported.isOpen = true ∧ ported.gpioClaimed = false ∧ ∃ k, k < ported.csCount.toNat ∧ (ported.portAt k).valid = true :=
  ⟨ported_good.1, by decide, by decide, 0, by decide, by decide⟩

theorem witness_ClosedBlockRejectsOperations_configuration :
    State.reset.isOpen = false ∧ IsTransfer (.spiWrite 9#8 [0#8] 7#8) 9#8 7#8 1 ∧ LegalFields 7#8 1 :=
  ⟨rfl, .inl ⟨_, rfl, rfl⟩, by unfold LegalFields; decide⟩

theorem witness_ClosedBlockRejectsOperations_argument :
    State.reset.isOpen = false ∧ IsTransfer (.spiWrite 9#8 [0#8] 8#8) 9#8 8#8 1 ∧ ¬ LegalFields 8#8 1 :=
  ⟨rfl, .inl ⟨_, rfl, rfl⟩, by unfold LegalFields; decide⟩

theorem witness_PartitionIsTotalAfterGetGpio :
    Inv ported ∧ ported.isOpen = true ∧ ∃ k, k < ported.csCount.toNat ∧ (ported.portAt k).valid = true :=
  ⟨ported_good.1, by decide, 0, by decide, by decide⟩

theorem witness_PortsAndBankLastUntilTerminate :
    ∃ t, Inv demo ∧ exec (.gpioWrite 0x0020#16) demo = .next t ∧ (demo.portAt 0).valid = true ∧ demo.gpioClaimed = true :=
  ⟨_, demo_good.1, rfl, by decide, by decide⟩

theorem witness_EachRegisterHasItsWriters :
    ∃ t, exec (.gpioSetDirection 0x00E0#16 0x0080#16) demo = .next t ∧ t.dir ≠ demo.dir := ⟨_, rfl, by decide⟩

theorem witness_EachRegisterHasItsWriters_port :
    ∃ t, exec (.getPort 1#8 5#32 .mode2 .lsbFirst) demo = .next t ∧ (t.portAt 1).mode ≠ (demo.portAt 1).mode := ⟨_, rfl, by decide⟩

theorem witness_KeepIsTheMaskOfSignificantBits : 0 ≤ 7 ∧ 7 ≤ 7 ∧ 7 < 8 := by decide

theorem witness_TrimMasksTheLastByteOnly : 0 ≤ 7 ∧ 7 ≤ 7 := by decide

theorem witness_TrimLaws : 0 ≤ 7 ∧ 7 ≤ 7 := by decide

theorem witness_BitsGoOutInPortOrder : 15 < 8 * [0xA6#8, 0x01#8].length := by decide

theorem witness_DeserialiseReadsTheTrain : (List.replicate 16 true).length = 8 * 2 ∧ 1 < 2 ∧ 7 < 8 := by decide

/-- The last pulse of the byte MSB first, the first of it LSB first; with `d = 0` nothing is dropped. -/
theorem witness_DroppedBitsOnTheWire : [0xFF#8] ≠ [] ∧ 7 ≤ 7 ∧ 7 < 8 * [0xFF#8].length ∧ 0 < 8 * [0xFF#8].length := by decide

theorem witness_XferRunsTheMicroSteps : Inv demo ∧ 0 < demo.par.csMax ∧ 4 < demo.par.csMax := ⟨demo_good.1, by decide, by decide⟩

theorem witness_XferMicroStepCount :
    Inv demo ∧ 0 < demo.par.csMax ∧ 4 < demo.par.csMax ∧
      .pins demo.pins :: environmentView (some demo.pins) (newEvents demo (xfer 0 [] demo).2)
        = [] ++ .pins ⟨0x0018#16, 0x007B#16⟩ :: .pins ⟨0x0010#16, 0x007B#16⟩ :: [.pins ⟨0x0018#16, 0x007B#16⟩] :=
  ⟨demo_good.1, by decide, by decide, by decide⟩

theorem witness_SamplesFallOnTheModesEdge :
    ∃ (before after : List PinEvent) (a b : MicroStep), Inv (answered [0#16]) ∧ 0 < (answered [0#16]).par.csMax ∧
      newEvents (answered [0#16]) (xfer 0 [true] (answered [0#16])).2 = before ++ .micro a :: .micro b :: after ∧
      b.sample.isSome = true :=
  ⟨(newEvents (answered [0#16]) (xfer 0 [true] (answered [0#16])).2).take 2,
    (newEvents (answered [0#16]) (xfer 0 [true] (answered [0#16])).2).drop 4,
    ⟨0x0012#16, 0x007B#16, some 0, ⟨.shift, 0, 1, 0⟩, none⟩, ⟨0x0013#16, 0x007B#16, some 0, ⟨.shift, 0, 1, 0⟩, some false⟩,
    (answered_good _).1, by decide, by decide, by decide⟩

theorem witness_MosiIsStableAtEachSample : Inv demo ∧ 4 < demo.par.csMax := ⟨demo_good.1, by decide⟩

theorem witness_AtMostOneSelectAsserted :
    ∃ t m, Inv (answered [0#16]) ∧ PinInv (answered [0#16]) ∧ exec (.spiWrite 0#8 [] 0#8) (answered [0#16]) = .next t ∧
      .micro m ∈ newEvents (answered [0#16]) t ∧ 1 < t.csCount.toNat ∧ m.activeCs = some 0 :=
  ⟨_, ⟨0x0010#16, 0x007B#16, some 0, ⟨.select, 0, 0, 0⟩, none⟩, (answered_good _).1, (answered_good _).2 (by decide), rfl, by decide,
    by decide, rfl⟩

theorem witness_XferReadsTheModeAlone :
    4 < demo.ports.length ∧ (⟨false, .mode0, .lsbFirst, 9#32⟩ : Port).mode = (demo.portAt 4).mode := by decide

theorem witness_TransferChecksInOrder_droptail :
    IsTransfer (.spiRead 0#8 1#16 0xFF#8) 0#8 0xFF#8 1 ∧ (0xFF#8).toInt < 0 ∧ 7 < (8#8).toInt :=
  ⟨.inr (.inl ⟨_, rfl, by decide⟩), by decide, by decide⟩

theorem witness_TransferChecksInOrder_empty :
    IsTransfer (.spiWrite 0#8 [] 1#8) 0#8 1#8 0 ∧ 0 ≤ (1#8).toInt ∧ (7#8).toInt ≤ 7 ∧ 0 < (1#8).toInt :=
  ⟨.inl ⟨[], rfl, rfl⟩, by decide, by decide, by decide⟩

theorem witness_TransferChecksInOrder_closed :
    IsTransfer (.spiExchange 0#8 [] 0#16 true 0#8) 0#8 0#8 0 ∧ LegalFields 0#8 0 ∧ State.reset.isOpen = false :=
  ⟨.inr (.inr (.inr (.inr ⟨[], 0#16, rfl, rfl⟩))), by unfold LegalFields; decide, rfl⟩

theorem witness_TransferChecksInOrder_index :
    IsTransfer (.spiExchange 2#8 [1#8] 0#16 false 7#8) 2#8 7#8 1 ∧ LegalFields 7#8 1 ∧ demo.isOpen = true ∧
      demo.csCount.toNat ≤ (2#8).toNat :=
  ⟨.inr (.inr (.inr (.inl ⟨_, _, rfl, by decide, rfl⟩))), by unfold LegalFields; decide, by decide, by decide⟩

theorem witness_TransferChecksInOrder_port :
    IsTransfer (.spiExchange 1#8 [] 1#16 false 7#8) 1#8 7#8 1 ∧ LegalFields 7#8 1 ∧ demo.isOpen = true ∧
      (1#8).toNat < demo.csCount.toNat ∧ (demo.portAt (1#8).toNat).valid = false :=
  ⟨.inr (.inr (.inl ⟨[], 1#16, rfl, by decide, by decide⟩)), by unfold LegalFields; decide, by decide, by decide, by decide⟩

theorem witness_TransferChecksInOrder_link :
    IsTransfer (.spiRead 0#8 1#16 0#8) 0#8 0#8 1 ∧ LegalFields 0#8 1 ∧ down.isOpen = true ∧ (0#8).toNat < down.csCount.toNat ∧
      (down.portAt (0#8).toNat).valid = true ∧ down.linkOk = false :=
  ⟨.inr (.inl ⟨1#16, rfl, by decide⟩), by unfold LegalFields; decide, by decide, by decide, by decide, by decide⟩

theorem witness_SpiWriteSendsTheTrimmedData : Inv demo ∧ LegalFields 7#8 [0x0F#8].length ∧ LegalFields 0#8 0 ∧ PortReady 0#8 demo :=
  ⟨demo_good.1, by unfold LegalFields; decide, by unfold LegalFields; decide, answered_ready []⟩

theorem witness_SpiReadReturnsTheSamples :
    Inv demo ∧ LegalFields 7#8 (65535#16).toNat ∧ LegalFields 0#8 (0#16).toNat ∧ PortReady 0#8 demo :=
  ⟨demo_good.1, by unfold LegalFields; decide, by unfold LegalFields; decide, answered_ready []⟩

theorem witness_HalfDuplexExchangeWritesThenReads :
    Inv demo ∧ 0 < (1#16).toNat ∧ LegalFields 7#8 (1#16).toNat ∧ PortReady 0#8 demo :=
  ⟨demo_good.1, by decide, by unfold LegalFields; decide, answered_ready []⟩

theorem witness_DuplexExchangeReturnsAsManyBytes :
    Inv demo ∧ [0xCF#8].length ≤ maxLen ∧ LegalFields 7#8 [0xCF#8].length ∧ PortReady 0#8 demo :=
  ⟨demo_good.1, by decide, by unfold LegalFields; decide, answered_ready []⟩

theorem witness_DroppedBitsAreReceivedAsZero :
    ∃ t, IsTransfer (.spiRead 0#8 1#16 7#8) 0#8 7#8 1 ∧
      exec (.spiRead 0#8 1#16 7#8) (answered (List.replicate 8 0xFFFF#16)) = .next t ∧
      t.rsp = some ⟨0x00000001#32, [0x80#8]⟩ ∧ [0x80#8].getLast? = some 0x80#8 ∧ 6 < (7#8).toInt.toNat :=
  ⟨_, .inr (.inl ⟨_, rfl, by decide⟩), rfl, by decide, by decide, by decide⟩

/-- The environment plays 1,1,0,0,1,1,0,0 (0xCC) on MISO, pin 2. -/
def loopCC : List PinWord := [4#16, 4#16, 0#16, 0#16, 4#16, 4#16, 0#16, 0#16]

theorem witness_DuplexLoopbackReturnsTheTrimmedData :
    ∃ t, Inv (answered loopCC) ∧ [0xCF#8].length ≤ maxLen ∧ LegalFields 2#8 [0xCF#8].length ∧ PortReady 0#8 (answered loopCC) ∧
      exec (.spiExchange 0#8 [0xCF#8] 0#16 true 2#8) (answered loopCC) = .next t ∧
      samplesOf (newEvents (answered loopCC) t) = mosiAtSamples (answered loopCC).par (newEvents (answered loopCC) t) :=
  ⟨_, (answered_good _).1, by decide, by unfold LegalFields; decide, answered_ready _, rfl, by decide⟩

theorem witness_WireLoopbackReadsZeros :
    ∃ t, Inv (answered (List.replicate 8 0#16)) ∧ LegalFields 3#8 (1#16).toNat ∧ PortReady 0#8 (answered (List.replicate 8 0#16)) ∧
      exec (.spiRead 0#8 1#16 3#8) (answered (List.replicate 8 0#16)) = .next t ∧
      samplesOf (newEvents (answered (List.replicate 8 0#16)) t)
        = mosiAtSamples (answered (List.replicate 8 0#16)).par (newEvents (answered (List.replicate 8 0#16)) t) :=
  ⟨_, (answered_good _).1, by unfold LegalFields; decide, answered_ready _, rfl, by decide⟩

set_option maxRecDepth 2000 in
theorem witness_StoringLoopbackReturnsTheTrimmedData :
    ∃ t u, Inv (answered (List.replicate 8 0#16 ++ loopCC)) ∧ 1 ≤ [0xCF#8].length ∧ [0xCF#8].length ≤ maxLen ∧
      LegalFields 2#8 [0xCF#8].length ∧ PortReady 0#8 (answered (List.replicate 8 0#16 ++ loopCC)) ∧
      exec (.spiWrite 0#8 [0xCF#8] 2#8) (answered (List.replicate 8 0#16 ++ loopCC)) = .next t ∧
      exec (.spiRead 0#8 (BitVec.ofNat 16 [0xCF#8].length) 2#8) t = .next u ∧
      samplesOf (newEvents t u)
        = mosiAtSamples (answered (List.replicate 8 0#16 ++ loopCC)).par (newEvents (answered (List.replicate 8 0#16 ++ loopCC)) t) :=
  ⟨_, _, (answered_good _).1, by decide, by decide, by unfold LegalFields; decide, answered_ready _, rfl, rfl, by decide⟩

theorem witness_TransfersLeaveOtherPinsAlone :
    ∃ t m, Inv demo ∧ IsTransfer (.spiWrite 0#8 [] 0#8) 0#8 0#8 0 ∧ exec (.spiWrite 0#8 [] 0#8) demo = .next t ∧
      6 ≠ demo.par.sckPin ∧ 6 ≠ demo.par.mosiPin ∧ 6 ≠ demo.par.csPin (0#8).toNat ∧ .micro m ∈ newEvents demo t :=
  ⟨_, ⟨0x0010#16, 0x007B#16, some 0, ⟨.select, 0, 0, 0⟩, none⟩, demo_good.1, .inl ⟨[], rfl, rfl⟩, rfl, by decide, by decide, by decide,
    by decide⟩

/-- A transfer that finds the bus at rest and completes (R55). -/
theorem witness_TransfersLeaveOtherPinsAlone_at_rest :
    ∃ t, Inv demo ∧ PinInv demo ∧ IsTransfer (.spiWrite 0#8 [] 0#8) 0#8 0#8 0 ∧ exec (.spiWrite 0#8 [] 0#8) demo = .next t ∧
      t.rsp ≠ some ⟨0x04000000#32, []⟩ ∧ demo.spiClaim.getLsbD 6 = false :=
  ⟨_, demo_good.1, demo_good.2 (by decide), .inl ⟨[], rfl, rfl⟩, rfl, by decide, by decide⟩

theorem witness_FrequencyIsNeverRead : ∃ t, exec (.spiWrite 0#8 [] 0#8) demo = .next t ∧ eraseFreq demo ≠ demo := ⟨_, rfl, by decide⟩

/-- The hypothesis of `BankChecksComeFirst` and of the first clause of the three statements after it. -/
theorem witness_BankChecksComeFirst : State.reset.isOpen = false ∧ ported.isOpen = true ∧ ported.gpioClaimed = false := by decide

/-- A pin that is not claimed (0, the clock; 8, which does not exist); a legal mask with the link down; a legal mask. -/
theorem witness_SetDirectionChangesTheNamedPins :
    demo.isOpen = true ∧ demo.gpioClaimed = true ∧ (0x0001#16) &&& ~~~demo.gpioClaim ≠ 0#16 ∧
      (0x0100#16) &&& ~~~demo.gpioClaim ≠ 0#16 ∧ (0x00E0#16) &&& ~~~demo.gpioClaim = 0#16 ∧ demo.linkOk = true ∧
      down.isOpen = true ∧ down.gpioClaimed = true ∧ (0x00E0#16) &&& ~~~down.gpioClaim = 0#16 ∧ down.linkOk = false ∧
      demo.out &&& ~~~demo.dir = 0#16 ∧ (0x0020#16).getLsbD 6 = false := by decide

theorem witness_GpioWriteDrivesTheOutputs :
    demo.isOpen = true ∧ demo.gpioClaimed = true ∧ (0x0080#16).getLsbD 7 = true ∧ demo.dir.getLsbD 7 = false ∧
      (∀ p, (0x0060#16).getLsbD p = true → demo.dir.getLsbD p = true) ∧ demo.linkOk = true ∧
      (∀ p, (0x0060#16).getLsbD p = true → down.dir.getLsbD p = true) ∧ down.linkOk = false :=
  ⟨by decide, by decide, by decide, by decide, (subset_iff _ _).1 (by decide), by decide, (subset_iff _ _).1 (by decide), by decide⟩

theorem witness_GpioReadSamplesTheClaimedPins :
    demo.isOpen = true ∧ demo.gpioClaimed = true ∧ demo.linkOk = true ∧ PinInv demo ∧ down.linkOk = false :=
  ⟨by decide, by decide, by decide, demo_good.2 (by decide), by decide⟩

/-- Every claimed pin an output: the environment is not asked. -/
theorem witness_GpioReadSamplesTheClaimedPins_no_question :
    ∀ p, (banked.setDirection 0x00E0#16 0x00E0#16).gpioClaim.getLsbD p = true →
      (banked.setDirection 0x00E0#16 0x00E0#16).oe.getLsbD p = true := (subset_iff _ _).1 (by decide)

theorem witness_GpioLeavesTheBusAlone :
    ∃ t, Inv demo ∧ exec (.gpioWrite 0x0060#16) demo = .next t ∧ demo.gpioClaim.getLsbD 3 = false ∧ demo.linkOk = true :=
  ⟨_, demo_good.1, rfl, by decide, by decide⟩

theorem witness_PairedPinsReadBack :
    Good demo ∧ demo.faulted = false ∧ BankReady demo ∧ (∀ p, (0x0040#16).getLsbD p = true → demo.dir.getLsbD p = true) ∧
      demo.gpioClaim.getLsbD 7 = true ∧ demo.dir.getLsbD 7 = false ∧ demo.dir.getLsbD 6 = true ∧
      seen (·.linkOk) (exec (.gpioWrite 0x0040#16) demo) = some true :=
  ⟨demo_good, by decide, by unfold BankReady; decide, (subset_iff _ _).1 (by decide), by decide, by decide, by decide, by decide⟩

theorem witness_BankCommandsAreIdempotent :
    ∃ t, BankReady demo ∧ exec (.gpioWrite 0x0040#16) demo = .next t ∧ t.linkOk = true :=
  ⟨_, by unfold BankReady; decide, rfl, by decide⟩

theorem witness_ReturningOutputDrivesZero :
    BankReady demo ∧ demo.gpioClaim.getLsbD 6 = true ∧
      seen (·.linkOk) (exec (.gpioSetDirection (pinBit 6) 0#16) demo) = some true :=
  ⟨by unfold BankReady; decide, by decide, by decide⟩

theorem witness_ErrorsArePrecise :
    ∃ t r, exec (.gpioWrite 0x0080#16) demo = .next t ∧ t.rsp = some r ∧ r.word.extractLsb' 24 8 = 3#8 :=
  ⟨_, _, rfl, rfl, by decide⟩

theorem witness_OnlyGpioWriteConflicts :
    ∃ t r, exec (.gpioSetDirection 0x0001#16 0#16) demo = .next t ∧ t.rsp = some r ∧ demo.isOpen = true ∧ demo.gpioClaimed = true ∧
      (0x0001#16).getLsbD 0 = true ∧ demo.gpioClaim.getLsbD 0 = false :=
  ⟨_, _, rfl, rfl, by decide, by decide, by decide, by decide⟩

theorem witness_TransportErrorKeepsTheRegisters :
    ∃ t r, Inv down ∧ exec (.gpioSetDirection 0x0020#16 0#16) down = .next t ∧ t.rsp = some r ∧ r.word.extractLsb' 24 8 = 4#8 ∧
      (0x0020#16).getLsbD 6 = false := ⟨_, _, down_good.1, rfl, rfl, by decide, by decide⟩

theorem witness_TransportErrorKeepsTheRegisters_transfer :
    ∃ t r, Inv down ∧ exec (.spiWrite 0#8 [] 0#8) down = .next t ∧ t.rsp = some r ∧ r.word.extractLsb' 24 8 = 4#8 ∧
      IsTransfer (.spiWrite 0#8 [] 0#8) 0#8 0#8 0 ∧ down.spiClaim.getLsbD 5 = false :=
  ⟨_, _, down_good.1, rfl, rfl, by decide, .inl ⟨[], rfl, rfl⟩, by decide⟩

theorem witness_TransportErrorKeepsTheRegisters_bank :
    ∃ t u r q, Inv down ∧ exec (.gpioWrite 0x0020#16) down = .next t ∧ t.rsp = some r ∧ r.word.extractLsb' 24 8 = 4#8 ∧
      down.dir.getLsbD 7 = false ∧ exec .gpioRead down = .next u ∧ u.rsp = some q ∧ q.word.extractLsb' 24 8 = 4#8 :=
  ⟨_, _, _, _, down_good.1, rfl, rfl, by decide, by decide, rfl, rfl, by decide⟩

theorem witness_ResponsesHaveTheLayout : (Instr.spiExchange 0#8 [0xCF#8] 0#16 true 2#8).wellFormed = true := by decide

theorem witness_EveryStepKeepsTheInvariant : ∃ t, Good demo ∧ step (demo.withFetchWord 64 0x2100000000000040) = .next t :=
  ⟨_, demo_good, rfl⟩

theorem witness_ResetMeetsTheInvariant :
    ({ Params.default with w := 16, csMax := 13, csActive := true } : Params).valid = true ∧ Params.default.valid = true := by decide

theorem witness_TerminateMakesTheRunSafeAgain : ∃ s, Inv s ∧ s.faulted = true :=
  ⟨down.linkFailure 0x0060#16 0#16, inv_linkFailure down_good.1 (by decide)
    (fun p hp => by have := (subset_iff 0x0060#16 0x00FF#16).1 (by decide) p hp
                    by_contra hge
                    have h16 := BitVec.lt_of_getLsbD hp
                    have : 8 ≤ p := Nat.not_lt.1 hge
                    interval_cases p <;> simp_all) (fun p hp => by simp at hp), rfl⟩

end Sys2Proof.Tests.Slice0
end

/-! PROOFS. The state of the block (10_state.md): what each operation can do, which registers it writes (O18), waiting (O8), the
table of R35 (O10), and the invariant from reset on (O59, O58). -/

namespace Sys2Proof.Machine

variable {s t : State}

/-! ### What an operation can do: it raises an error, the link breaks, or it completes

The transfers' part is `exec_transfer_cases`; these are the other seven operations. -/

/-- CONFIGURE (R80). -/
theorem exec_configure_inv {n : BitVec 8} (h : exec (.configure n) s = .next t) :
    ((s.isOpen = true ∨ n.toNat < 1 ∨ s.par.csMax < n.toNat) ∧ t = s.raise .configuration) ∨
    (s.isOpen = false ∧ 1 ≤ n.toNat ∧ n.toNat ≤ s.par.csMax ∧ s.devicePresent = false ∧ t = s.deviceAsked.raise .configuration) ∨
    (s.isOpen = false ∧ 1 ≤ n.toNat ∧ n.toNat ≤ s.par.csMax ∧ s.devicePresent = true ∧
      t = (s.deviceAsked.openBlock n).answerOk 0#16 []) := by
  simp only [exec, execConfigure, Host.Outcome.next.injEq] at h
  split_ifs at h with h1 h2 h3
  · exact .inl ⟨.inl h1, h.symm⟩
  · exact .inl ⟨.inr h2, h.symm⟩
  · exact .inr (.inl ⟨by simpa using h1, by omega, by omega, h3, h.symm⟩)
  · exact .inr (.inr ⟨by simpa using h1, by omega, by omega, by simpa using h3, h.symm⟩)

/-- GET_PORT (R82). -/
theorem exec_getPort_inv {index : BitVec 8} {freq : BitVec 32} {mode : Mode} {order : BitOrder}
    (h : exec (.getPort index freq mode order) s = .next t) :
    ((s.isOpen = false ∨ s.csCount.toNat ≤ index.toNat ∨ freq.toNat = 0 ∨ s.par.fMax < freq.toNat) ∧ t = s.raise .configuration) ∨
    (s.isOpen = true ∧ index.toNat < s.csCount.toNat ∧ 1 ≤ freq.toNat ∧ freq.toNat ≤ s.par.fMax ∧
      t = State.answerOk (index.setWidth 16) [] { s with ports := s.ports.set index.toNat ⟨true, mode, order, freq⟩ }) := by
  simp only [exec, execGetPort, Host.Outcome.next.injEq] at h
  split_ifs at h with h1 h2 h3
  · exact .inl ⟨.inl h1, h.symm⟩
  · exact .inl ⟨.inr (.inl h2), h.symm⟩
  · exact .inl ⟨.inr (.inr h3), h.symm⟩
  · exact .inr ⟨by simpa using h1, by omega, by omega, by omega, h.symm⟩

/-- GET_GPIO (R84). -/
theorem exec_getGpio_inv (h : exec .getGpio s = .next t) :
    ((s.isOpen = false ∨ s.gpioClaimed = false ∧ s.anyPort = false) ∧ t = s.raise .configuration) ∨
    (s.isOpen = true ∧ s.gpioClaimed = true ∧ t = s.answerOk s.gpioClaim []) ∨
    (s.isOpen = true ∧ s.gpioClaimed = false ∧ s.anyPort = true ∧ t = s.claimGpio.answerOk s.claimGpio.gpioClaim []) := by
  simp only [exec, execGetGpio, Host.Outcome.next.injEq] at h
  split_ifs at h with h1 h2 h3
  · exact .inl ⟨.inl h1, h.symm⟩
  · exact .inr (.inl ⟨by simpa using h1, h2, h.symm⟩)
  · exact .inl ⟨.inr ⟨by simpa using h2, h3⟩, h.symm⟩
  · exact .inr (.inr ⟨by simpa using h1, by simpa using h2, by simpa using h3, h.symm⟩)

/-- TERMINATE succeeds in every state (R86). -/
theorem exec_terminate_inv (h : exec .terminate s = .next t) : t = s.closeBlock.answerOk 0#16 [] :=
  (Host.Outcome.next.inj h).symm

/-- The link breaks, or the operation runs (R184). -/
theorem State.askLink_cases (failure body : State → State) (s : State) :
    (s.linkOk = false ∧ s.askLink failure body = failure s.linkAsked) ∨
    (s.linkOk = true ∧ s.askLink failure body = body s.linkAsked) := by
  cases h : s.linkOk
  · exact .inl ⟨rfl, State.askLink_down _ _ h⟩
  · exact .inr ⟨rfl, State.askLink_up _ _ h⟩

/-- The shape of GPIO_SET_DIRECTION and GPIO_WRITE: the checks on the bank, one on the operand, then the link (R168, R184). -/
theorem bankOperation_inv {bad : Prop} [Decidable bad] {e : ErrorClass} {failure body : State → State}
    (h : (match checkGpio s with
      | some c => s.raise c
      | none => if bad then s.raise e else s.askLink failure body) = t) :
    (∃ c, t = s.raise c ∧ (checkGpio s = some c ∨ checkGpio s = none ∧ bad ∧ c = e)) ∨
    (checkGpio s = none ∧ ¬ bad ∧ s.linkOk = false ∧ t = failure s.linkAsked) ∨
    (checkGpio s = none ∧ ¬ bad ∧ s.linkOk = true ∧ t = body s.linkAsked) := by
  subst h
  cases hc : checkGpio s with
  | some c => exact .inl ⟨c, rfl, .inl rfl⟩
  | none =>
    by_cases hb : bad
    · exact .inl ⟨e, if_pos hb, .inr ⟨rfl, hb, rfl⟩⟩
    · rw [if_neg hb]
      rcases State.askLink_cases failure body s with ⟨hl, ht⟩ | ⟨hl, ht⟩
      · exact .inr (.inl ⟨rfl, hb, hl, ht⟩)
      · exact .inr (.inr ⟨rfl, hb, hl, ht⟩)

/-- GPIO_SET_DIRECTION (R160). -/
theorem exec_gpioSetDirection_inv {m o : PinWord} (h : exec (.gpioSetDirection m o) s = .next t) :
    (∃ c, t = s.raise c ∧ (checkGpio s = some c ∨
      checkGpio s = none ∧ m &&& ~~~s.gpioClaim ≠ 0#16 ∧ c = .invalidArgument)) ∨
    (checkGpio s = none ∧ ¬ m &&& ~~~s.gpioClaim ≠ 0#16 ∧ s.linkOk = false ∧ t = s.linkAsked.linkFailure m m) ∨
    (checkGpio s = none ∧ ¬ m &&& ~~~s.gpioClaim ≠ 0#16 ∧ s.linkOk = true ∧
      t = (s.linkAsked.setDirection m o).answerOk 0#16 []) :=
  bankOperation_inv (Host.Outcome.next.inj h)

/-- GPIO_WRITE (R163). -/
theorem exec_gpioWrite_inv {v : PinWord} (h : exec (.gpioWrite v) s = .next t) :
    (∃ c, t = s.raise c ∧ (checkGpio s = some c ∨ checkGpio s = none ∧ v &&& ~~~s.dir ≠ 0#16 ∧ c = .gpioConflict)) ∨
    (checkGpio s = none ∧ ¬ v &&& ~~~s.dir ≠ 0#16 ∧ s.linkOk = false ∧ t = s.linkAsked.linkFailure s.dir 0#16) ∨
    (checkGpio s = none ∧ ¬ v &&& ~~~s.dir ≠ 0#16 ∧ s.linkOk = true ∧ t = (s.linkAsked.writeBank v).answerOk 0#16 []) :=
  bankOperation_inv (Host.Outcome.next.inj h)

/-- GPIO_READ (R166). -/
theorem exec_gpioRead_inv (h : exec .gpioRead s = .next t) :
    (∃ e, checkGpio s = some e ∧ t = s.raise e) ∨
    (checkGpio s = none ∧ s.linkOk = false ∧ t = s.linkAsked.linkFailure 0#16 0#16) ∨
    (checkGpio s = none ∧ s.linkOk = true ∧
      t = (s.linkAsked.samplePins s.gpioClaim).2.answerOk (s.linkAsked.samplePins s.gpioClaim).1 []) := by
  simp only [exec, execGpioRead, Host.Outcome.next.injEq] at h
  subst h
  cases hc : checkGpio s with
  | some e => exact .inl ⟨e, rfl, rfl⟩
  | none =>
    rcases State.askLink_cases _ _ s with ⟨hl, e⟩ | ⟨hl, e⟩
    · exact .inr (.inl ⟨rfl, hl, e⟩)
    · exact .inr (.inr ⟨rfl, hl, e⟩)

/-- The three transfers (R140 to R146): `exec_transfer_cases`, read from the state after. -/
theorem exec_transfer_inv {i : Instr} {index d : BitVec 8} {len : Nat} (hi : IsTransfer i index d len) (h : exec i s = .next t) :
    (∃ e, checkXfer index d len s = some e ∧ t = s.raise e) ∨
    (checkXfer index d len s = none ∧ s.linkOk = false ∧ t = s.linkAsked.linkFailure s.spiClaim 0#16) ∨
    (checkXfer index d len s = none ∧ s.linkOk = true ∧ ∃ o v p, t = (xfer index.toNat o s.linkAsked).2.answerOk v p) := by
  rcases exec_transfer_cases hi s with ⟨e, hc, he⟩ | ⟨hc, hl, he⟩ | ⟨hc, hl, o, v, p, he, -⟩
  · exact .inl ⟨e, hc, Host.Outcome.next.inj (h.symm.trans he)⟩
  · exact .inr (.inl ⟨hc, hl, Host.Outcome.next.inj (h.symm.trans he)⟩)
  · exact .inr (.inr ⟨hc, hl, o, v, p, Host.Outcome.next.inj (h.symm.trans he)⟩)

/-! ### Which registers an operation writes -/

theorem SameRegisters.answer {u : State} (h : SameRegisters s u) (r : Response) : SameRegisters s (u.answer r) := by
  obtain ⟨h1, h2, h3, h4, h5, h6, h7, h8⟩ := h
  exact ⟨h1, h2, h3, h4, h5, h6, h7, h8⟩

theorem sameRegisters_raise (e : ErrorClass) (s : State) : SameRegisters s (s.raise e) := (SameRegisters.refl s).answer _

/-- A broken link leaves every register as it was (R184). -/
theorem sameRegisters_linkFailure (a b : PinWord) (s : State) : SameRegisters s (s.linkAsked.linkFailure a b) :=
  ⟨rfl, rfl, rfl, rfl, rfl, rfl, rfl, rfl⟩

theorem sameRegisters_linkAsked_xfer (k : Nat) (o : List Bool) (s : State) : SameRegisters s (xfer k o s.linkAsked).2 := by
  constructor <;> simp

theorem sameRegisters_linkAsked_samplePins (m : PinWord) (s : State) : SameRegisters s (s.linkAsked.samplePins m).2 := by
  constructor <;> simp

/-- The registers after an operation: those before it, unless it is one of the six that write some, and then those of its
effect (section 12 of 10_state.md). -/
inductive RegistersAfter (s : State) : Instr → State → Prop where
  | same {i : Instr} {t : State} (h : SameRegisters s t) : RegistersAfter s i t
  | configure {n : BitVec 8} {t : State} (h : SameRegisters (s.openBlock n) t) : RegistersAfter s (.configure n) t
  | getPort {index : BitVec 8} {freq : BitVec 32} {mode : Mode} {order : BitOrder} {t : State}
      (h : SameRegisters { s with ports := s.ports.set index.toNat ⟨true, mode, order, freq⟩ } t) :
      RegistersAfter s (.getPort index freq mode order) t
  | getGpio {t : State} (h : SameRegisters s.claimGpio t) : RegistersAfter s .getGpio t
  | terminate {t : State} (h : SameRegisters s.closeBlock t) : RegistersAfter s .terminate t
  | gpioSetDirection {m o : PinWord} {t : State} (h : SameRegisters (s.setDirection m o) t) :
      RegistersAfter s (.gpioSetDirection m o) t
  | gpioWrite {v : PinWord} {t : State} (h : SameRegisters (s.writeBank v) t) : RegistersAfter s (.gpioWrite v) t

theorem exec_registersAfter {i : Instr} (h : exec i s = .next t) : RegistersAfter s i t := by
  rcases isTransfer_or i with ⟨index, d, len, hi⟩ | ⟨n, rfl⟩ | ⟨index, freq, mode, order, rfl⟩ | rfl | rfl | ⟨m, o, rfl⟩ | ⟨v, rfl⟩ | rfl
  · rcases exec_transfer_inv hi h with ⟨e, -, rfl⟩ | ⟨-, -, rfl⟩ | ⟨-, -, o, v, p, rfl⟩
    · exact .same (sameRegisters_raise e s)
    · exact .same (sameRegisters_linkFailure _ _ s)
    · exact .same ((sameRegisters_linkAsked_xfer _ o s).answer _)
  · rcases exec_configure_inv h with ⟨-, rfl⟩ | ⟨-, -, -, -, rfl⟩ | ⟨-, -, -, -, rfl⟩
    · exact .same (sameRegisters_raise _ s)
    · exact .same ⟨rfl, rfl, rfl, rfl, rfl, rfl, rfl, rfl⟩
    · exact .configure ⟨rfl, rfl, rfl, rfl, rfl, rfl, rfl, rfl⟩
  · rcases exec_getPort_inv h with ⟨-, rfl⟩ | ⟨-, -, -, -, rfl⟩
    · exact .same (sameRegisters_raise _ s)
    · exact .getPort ((SameRegisters.refl _).answer _)
  · rcases exec_getGpio_inv h with ⟨-, rfl⟩ | ⟨-, -, rfl⟩ | ⟨-, -, -, rfl⟩
    · exact .same (sameRegisters_raise _ s)
    · exact .same ((SameRegisters.refl s).answer _)
    · exact .getGpio ((SameRegisters.refl _).answer _)
  · obtain rfl := exec_terminate_inv h
    exact .terminate ((SameRegisters.refl _).answer _)
  · rcases exec_gpioSetDirection_inv h with ⟨e, rfl, -⟩ | ⟨-, -, -, rfl⟩ | ⟨-, -, -, rfl⟩
    · exact .same (sameRegisters_raise e s)
    · exact .same (sameRegisters_linkFailure m m s)
    · exact .gpioSetDirection ⟨rfl, rfl, rfl, rfl, rfl, rfl, rfl, rfl⟩
  · rcases exec_gpioWrite_inv h with ⟨e, rfl, -⟩ | ⟨-, -, -, rfl⟩ | ⟨-, -, -, rfl⟩
    · exact .same (sameRegisters_raise e s)
    · exact .same (sameRegisters_linkFailure _ _ s)
    · exact .gpioWrite ⟨rfl, rfl, rfl, rfl, rfl, rfl, rfl, rfl⟩
  · rcases exec_gpioRead_inv h with ⟨e, -, rfl⟩ | ⟨-, -, rfl⟩ | ⟨-, -, rfl⟩
    · exact .same (sameRegisters_raise e s)
    · exact .same (sameRegisters_linkFailure _ _ s)
    · exact .same ((sameRegisters_linkAsked_samplePins _ s).answer _)

/-- The same registers hold the same descriptors. -/
theorem SameRegisters.portAt_eq (h : SameRegisters s t) (k : Nat) : t.portAt k = s.portAt k := by
  simp [State.portAt, h.ports]

/-- CONFIGURE and TERMINATE make every port invalid and keep the rest of its descriptor (R80, R86, log 16). -/
theorem openBlock_portAt (n : BitVec 8) (s : State) (k : Nat) : (s.openBlock n).portAt k = { s.portAt k with valid := false } :=
  portAt_invalidatePorts s.ports k

theorem closeBlock_portAt (s : State) (k : Nat) : s.closeBlock.portAt k = { s.portAt k with valid := false } :=
  portAt_invalidatePorts s.ports k

/-- GET_PORT leaves the other ports alone. -/
theorem portAt_setPort_of_ne {j k : Nat} (q : Port) (h : j ≠ k) (s : State) :
    State.portAt { s with ports := s.ports.set j q } k = s.portAt k := by
  simp [State.portAt, List.getD_eq_getElem?_getD, List.getElem?_set_ne h]

/-- Settles O18: the registers after each operation are those of `RegistersAfter`. -/
theorem eachRegisterHasItsWriters : Obligations.EachRegisterHasItsWriters := by
  unfold Obligations.EachRegisterHasItsWriters
  intro s t i h
  cases exec_registersAfter h with
  | same hr => simp [hr.par, hr.isOpen, hr.csCount, hr.owner, hr.gpioClaimed, hr.dir, hr.out, hr.portAt_eq]
  | configure hr =>
    have hp := fun k => (hr.portAt_eq k).trans (openBlock_portAt _ s k)
    simp [hr.par, hp, State.openBlock]
  | @getPort index _ _ _ _ hr =>
    simp only [hr.par, hr.isOpen, hr.csCount, hr.owner, hr.gpioClaimed, hr.dir, hr.out, hr.portAt_eq]
    refine ⟨by simp, by simp, fun k hk => ?_, by simp, by simp, trivial⟩
    by_cases hi : index.toNat = k
    · exact ⟨_, _, _, _, rfl, hi⟩
    · simp [portAt_setPort_of_ne _ hi] at hk
  | getGpio hr =>
    have hp : ∀ k, t.portAt k = s.portAt k := hr.portAt_eq
    simp [hr.par, hr.isOpen, hr.csCount, hp, State.claimGpio]
  | terminate hr =>
    have hp := fun k => (hr.portAt_eq k).trans (closeBlock_portAt s k)
    simp [hr.par, hp, State.closeBlock]
  | gpioSetDirection hr =>
    have hp : ∀ k, t.portAt k = s.portAt k := hr.portAt_eq
    simp [hr.par, hr.isOpen, hr.csCount, hr.owner, hr.gpioClaimed, hp, State.setDirection]
  | gpioWrite hr =>
    have hp : ∀ k, t.portAt k = s.portAt k := hr.portAt_eq
    simp [hr.par, hr.isOpen, hr.csCount, hr.owner, hr.gpioClaimed, hr.dir, hp, State.writeBank]

/-! ### Waiting, and the table of R35 -/

theorem step_of_noReset (h : s.resetIn = none) : step s = runCommand s := by unfold step; rw [h]

theorem step_of_reset {k : Nat} (h : s.resetIn = some k) : step s = resetStep k s := by unfold step; rw [h]

/-- Settles O8: without a pending reset a step runs the front of the port, and there is no whole command there. -/
theorem stepWaitsForAWholeCommand : Obligations.StepWaitsForAWholeCommand := by
  unfold Obligations.StepWaitsForAWholeCommand
  intro s hr hd
  rw [step_of_noReset hr, runCommand_incomplete hd]

theorem AtReset.answer (h : AtReset s) (r : Response) : AtReset (s.answer r) := by
  obtain ⟨h1, h2, h3, h4, h5, h6, h7, h8, h9, h10, h11⟩ := h
  exact ⟨h1, h2, h3, h4, h5, h6, h7, h8, h9, h10, h11⟩

/-- Settles O10: TERMINATE closes the block, which is the table again, and answers. -/
theorem resetAndTerminateLeaveTheTable : Obligations.ResetAndTerminateLeaveTheTable := by
  unfold Obligations.ResetAndTerminateLeaveTheTable
  exact ⟨atReset_resetWith, atReset_resetWith Params.default, fun s => ⟨_, rfl, (atReset_closeBlock s).answer _⟩⟩

/-! ### The invariant -/

/-- Settles O59: the state after reset is at the table of R35, which meets the invariant. -/
theorem resetMeetsTheInvariant : Obligations.ResetMeetsTheInvariant := by
  unfold Obligations.ResetMeetsTheInvariant
  exact ⟨fun _ => good_resetWith, by decide⟩

theorem good_exec_configure {n : BitVec 8} (h : Good s) (he : exec (.configure n) s = .next t) : Good t := by
  rcases exec_configure_inv he with ⟨-, rfl⟩ | ⟨-, -, -, -, rfl⟩ | ⟨-, h1, hn, -, rfl⟩
  · exact h.raise _
  · exact h.deviceAsked.raise _
  · exact (good_openBlock h.deviceAsked h1 hn).answer _

theorem good_exec_getPort {index : BitVec 8} {freq : BitVec 32} {mode : Mode} {order : BitOrder} (h : Good s)
    (he : exec (.getPort index freq mode order) s = .next t) : Good t := by
  rcases exec_getPort_inv he with ⟨-, rfl⟩ | ⟨ho, hk, h1, h2, rfl⟩
  · exact h.raise _
  · exact (good_setPort h ho hk rfl h1 h2).answer _

theorem good_exec_getGpio (h : Good s) (he : exec .getGpio s = .next t) : Good t := by
  rcases exec_getGpio_inv he with ⟨-, rfl⟩ | ⟨-, -, rfl⟩ | ⟨ho, hc, ha, rfl⟩
  · exact h.raise _
  · exact h.answer _
  · exact (good_claimGpio h ho hc (s.anyPort_iff.1 ha)).answer _

/-- TERMINATE needs `Inv` alone: it makes the run safe again (R184). -/
theorem good_exec_terminate (h : Inv s) (he : exec .terminate s = .next t) : Good t := by
  obtain rfl := exec_terminate_inv he
  exact (good_closeBlock h).answer _

theorem good_exec_transfer {i : Instr} {index d : BitVec 8} {len : Nat} (hi : IsTransfer i index d len) (h : Good s)
    (he : exec i s = .next t) : Good t := by
  rcases exec_transfer_inv hi he with ⟨e, -, rfl⟩ | ⟨hc, -, rfl⟩ | ⟨hc, -, o, v, p, rfl⟩
  · exact h.raise e
  · obtain ⟨-, ho, -, -⟩ := (checkXfer_none_iff ..).1 hc
    exact good_linkFailure h.1.linkAsked ho (fun p hp => h.1.spiClaim_lt hp) (by simp)
  · obtain ⟨-, ho, hk, -⟩ := (checkXfer_none_iff ..).1 hc
    exact (good_xfer o h.linkAsked ho hk).answer _

theorem good_exec_gpioSetDirection {m o : PinWord} (h : Good s) (he : exec (.gpioSetDirection m o) s = .next t) : Good t := by
  rcases exec_gpioSetDirection_inv he with ⟨e, rfl, -⟩ | ⟨hc, hm, -, rfl⟩ | ⟨hc, hm, -, rfl⟩
  · exact h.raise e
  all_goals
    have ho := ((checkGpio_none_iff s).1 hc).1
    have hclaim := (subset_iff _ _).1 (not_not.1 hm)
  · exact good_linkFailure h.1.linkAsked ho (fun p hp => h.1.claim_lt (hclaim p hp)) hclaim
  · exact (good_setDirection o h.linkAsked ho hclaim).answer _

theorem good_exec_gpioWrite {v : PinWord} (h : Good s) (he : exec (.gpioWrite v) s = .next t) : Good t := by
  rcases exec_gpioWrite_inv he with ⟨e, rfl, -⟩ | ⟨hc, -, -, rfl⟩ | ⟨hc, -, -, rfl⟩
  · exact h.raise e
  all_goals have ho := ((checkGpio_none_iff s).1 hc).1
  · exact good_linkFailure h.1.linkAsked ho (fun p hp => h.1.claim_lt (h.1.dir_claim hp)) (by simp)
  · exact (good_writeBank v h.linkAsked ho).answer _

theorem good_exec_gpioRead (h : Good s) (he : exec .gpioRead s = .next t) : Good t := by
  rcases exec_gpioRead_inv he with ⟨e, -, rfl⟩ | ⟨hc, -, rfl⟩ | ⟨-, -, rfl⟩
  · exact h.raise e
  · exact good_linkFailure h.1.linkAsked ((checkGpio_none_iff s).1 hc).1 (by simp) (by simp)
  · exact (good_samplePins _ h.linkAsked).answer _

/-- Every operation keeps the invariant, however it ends. -/
theorem good_exec {i : Instr} (h : Good s) (he : exec i s = .next t) : Good t := by
  rcases isTransfer_or i with ⟨index, d, len, hi⟩ | ⟨n, rfl⟩ | ⟨index, freq, mode, order, rfl⟩ | rfl | rfl | ⟨m, o, rfl⟩ | ⟨v, rfl⟩ | rfl
  · exact good_exec_transfer hi h he
  · exact good_exec_configure h he
  · exact good_exec_getPort h he
  · exact good_exec_getGpio h he
  · exact good_exec_terminate h.1 he
  · exact good_exec_gpioSetDirection h he
  · exact good_exec_gpioWrite h he
  · exact good_exec_gpioRead h he

/-- What stands on the ports to the outside is no part of the invariant. -/
theorem Good.withCmdIn (h : Good s) (rest : List Byte) : Good { s with cmdIn := rest } :=
  h.congr ⟨rfl, rfl, rfl, rfl, rfl, rfl, rfl, rfl⟩ rfl rfl rfl rfl rfl

theorem Good.refuseWord (h : Good s) (rest : List Byte) : Good (s.refuseWord rest) :=
  h.congr ⟨rfl, rfl, rfl, rfl, rfl, rfl, rfl, rfl⟩ rfl rfl rfl rfl rfl

theorem good_runCommand (h : Good s) (hr : runCommand s = .next t) : Good t := by
  rcases runCommand_next hr with ⟨i, rest, -, -, he⟩ | ⟨-, rfl⟩ | ⟨rest, -, rfl⟩
  · exact good_exec (h.withCmdIn rest) he
  · exact h
  · exact h.refuseWord rest

/-- Settles O58: a step runs the front of the command port, or a reset acts in it. -/
theorem everyStepKeepsTheInvariant : Obligations.EveryStepKeepsTheInvariant := by
  unfold Obligations.EveryStepKeepsTheInvariant
  intro s t h hs
  cases hr : s.resetIn with
  | none =>
    rw [step_of_noReset hr] at hs
    exact good_runCommand h hs
  | some k =>
    obtain ⟨u, hu⟩ := resetStep_next k s
    rw [step_of_reset hr, hu] at hs
    obtain rfl := Host.Outcome.next.inj hs
    exact good_resetInside k h.1.parValid

end Sys2Proof.Machine

/-! PROOFS. The command port and the bank's memory (20_memory.md): the step that runs a decoded command (O7), and the bank commands
given twice (O51). -/

namespace Sys2Proof.Machine

variable {s t : State}

/-- Settles O7: without a pending reset a step runs the front of the port, and `may_run_iff` says which commands it may run. -/
theorem stepRunsTheDecodedCommand : Obligations.StepRunsTheDecodedCommand := by
  unfold Obligations.StepRunsTheDecodedCommand
  intro s i rest hr hd
  rw [step_of_noReset hr, runCommand_command hd]
  exact ⟨fun h => if_neg ((may_run_iff s i).2 h), fun hf hi => if_pos ⟨hf, hi⟩⟩

/-! ### A bank command on a usable bank, the link holding -/

theorem BankReady.checkGpio_eq_none (h : BankReady s) : checkGpio s = none := by
  obtain ⟨ho, hc, -⟩ := h
  exact (checkGpio_none_iff s).2 ⟨ho, hc⟩

/-- GPIO_SET_DIRECTION has its operand left to check (R160). -/
theorem BankReady.exec_gpioSetDirection (h : BankReady s) (m o : PinWord) :
    exec (.gpioSetDirection m o) s = .next (if m &&& ~~~s.gpioClaim ≠ 0#16 then s.raise .invalidArgument
      else (s.linkAsked.setDirection m o).answerOk 0#16 []) := by
  have hc := h.checkGpio_eq_none
  obtain ⟨-, -, hl⟩ := h
  simp only [exec, execGpioSetDirection, hc, State.askLink_up _ _ hl]

/-- GPIO_WRITE has its operand left to check (R163). -/
theorem BankReady.exec_gpioWrite (h : BankReady s) (v : PinWord) :
    exec (.gpioWrite v) s = .next (if v &&& ~~~s.dir ≠ 0#16 then s.raise .gpioConflict
      else (s.linkAsked.writeBank v).answerOk 0#16 []) := by
  have hc := h.checkGpio_eq_none
  obtain ⟨-, -, hl⟩ := h
  simp only [exec, execGpioWrite, hc, State.askLink_up _ _ hl]

/-! ### The effect of a bank command, given twice -/

theorem mergePins_mergePins_same (m new old : PinWord) : mergePins m new (mergePins m new old) = mergePins m new old := by
  refine pinWord_ext fun p _ => ?_
  cases h : m.getLsbD p <;> simp [h]

theorem newDir_newDir_same (dir m o : PinWord) : newDir (newDir dir m o) m o = newDir dir m o := by
  refine pinWord_ext fun p _ => ?_
  cases h : m.getLsbD p <;> simp [getLsbD_newDir, h]

/-- The first GPIO_SET_DIRECTION has cleared `OUT` outside the new `DIR`, and the latches hold the merged words already. -/
theorem setDirection_again (m o : PinWord) (v : BitVec 16) (p : List Byte) (s : State) :
    ∃ hist l, (((s.setDirection m o).answerOk v p).linkAsked.setDirection m o).answerOk v p
      = { (s.setDirection m o).answerOk v p with history := hist, link := l } := by
  simp [State.setDirection, State.record, State.enablePins, State.drivePins, State.answerOk, State.answer, State.linkAsked,
    newDir_newDir_same, mergePins_mergePins_same, BitVec.and_assoc]

/-- `OUT` and `DRV` hold the written value at the outputs already, and GPIO_WRITE leaves `DIR` alone. -/
theorem writeBank_again (w : PinWord) (v : BitVec 16) (p : List Byte) (s : State) :
    ∃ hist l, (((s.writeBank w).answerOk v p).linkAsked.writeBank w).answerOk v p
      = { (s.writeBank w).answerOk v p with history := hist, link := l } := by
  simp [State.writeBank, State.record, State.drivePins, State.answerOk, State.answer, State.linkAsked,
    mergePins_mergePins_same]

/-- A refused GPIO_SET_DIRECTION is refused again; one that ran has nothing left to change. -/
theorem exec_gpioSetDirection_again {m o : PinWord} (hs : BankReady s) (h : exec (.gpioSetDirection m o) s = .next t)
    (hl : t.linkOk = true) :
    ∃ hist l, exec (.gpioSetDirection m o) t = .next { t with history := hist, link := l } := by
  have ht := Host.Outcome.next.inj (h.symm.trans (hs.exec_gpioSetDirection m o))
  obtain ⟨ho, hc, -⟩ := hs
  by_cases hm : m &&& ~~~s.gpioClaim ≠ 0#16
  · obtain rfl := ht.trans (if_pos hm)
    have hr : BankReady (s.raise .invalidArgument) := ⟨ho, hc, hl⟩
    exact ⟨s.history, s.link, (hr.exec_gpioSetDirection m o).trans (congrArg _ (if_pos hm))⟩
  · obtain rfl := ht.trans (if_neg hm)
    have hr : BankReady ((s.linkAsked.setDirection m o).answerOk 0#16 []) := ⟨ho, hc, hl⟩
    obtain ⟨hist, l, hu⟩ := setDirection_again m o 0#16 [] s.linkAsked
    exact ⟨hist, l, (hr.exec_gpioSetDirection m o).trans (congrArg _ ((if_neg hm).trans hu))⟩

/-- A refused GPIO_WRITE is refused again; one that ran has nothing left to change. -/
theorem exec_gpioWrite_again {v : PinWord} (hs : BankReady s) (h : exec (.gpioWrite v) s = .next t) (hl : t.linkOk = true) :
    ∃ hist l, exec (.gpioWrite v) t = .next { t with history := hist, link := l } := by
  have ht := Host.Outcome.next.inj (h.symm.trans (hs.exec_gpioWrite v))
  obtain ⟨ho, hc, -⟩ := hs
  by_cases hv : v &&& ~~~s.dir ≠ 0#16
  · obtain rfl := ht.trans (if_pos hv)
    have hr : BankReady (s.raise .gpioConflict) := ⟨ho, hc, hl⟩
    exact ⟨s.history, s.link, (hr.exec_gpioWrite v).trans (congrArg _ (if_pos hv))⟩
  · obtain rfl := ht.trans (if_neg hv)
    have hr : BankReady ((s.linkAsked.writeBank v).answerOk 0#16 []) := ⟨ho, hc, hl⟩
    obtain ⟨hist, l, hu⟩ := writeBank_again v 0#16 [] s.linkAsked
    exact ⟨hist, l, (hr.exec_gpioWrite v).trans (congrArg _ ((if_neg hv).trans hu))⟩

/-- Settles O51: each bank command, given again, leaves all but the history and the link as it found it. -/
theorem bankCommandsAreIdempotent : Obligations.BankCommandsAreIdempotent := by
  unfold Obligations.BankCommandsAreIdempotent
  rintro s t i (⟨m, o, rfl⟩ | ⟨v, rfl⟩) hs h hl
  · obtain ⟨hist, l, hu⟩ := exec_gpioSetDirection_again hs h hl
    exact ⟨_, hu, rfl⟩
  · obtain ⟨hist, l, hu⟩ := exec_gpioWrite_again hs h hl
    exact ⟨_, hu, rfl⟩

end Sys2Proof.Machine

/-! PROOFS. The command encoding (30_encoding.md): the opcode map (O1, O2, O3), decoding and encoding as inverses of each other
(O4, O5), illegal words (O6), the equalities between the transfers (O37, O38) and the layout of the responses (O57). -/

namespace Sys2Proof

/-! ### The opcode map -/

theorem instrOf_op (o : Op) (w : Word) (payload : List Byte) : (instrOf o w payload).op = o := by cases o <;> rfl

theorem selectedOp_eq_some_iff (w : Word) (o : Op) : selectedOp w = some o ↔ w &&& o.mask = o.pattern :=
  ⟨selects_of_selectedOp, selectedOp_of_selects⟩

theorem selectedOp_eq_none_iff (w : Word) : selectedOp w = none ↔ ∀ o : Op, w &&& o.mask ≠ o.pattern := by
  simp only [Option.eq_none_iff_forall_ne_some, ne_eq, selectedOp_eq_some_iff]

/-- Settles O1: the decoder evaluated on each of the ten words. -/
theorem commandWordsDecode : Obligations.CommandWordsDecode := by
  unfold Obligations.CommandWordsDecode
  refine ⟨?_, ?_, ?_, ?_, ?_, ?_, ?_, ?_, ?_, ?_⟩ <;> decide

/-- Settles O2: the table row by row; the decoder finds the row a word is in, and no other. -/
theorem opcodeMapIsTheSpecs : Obligations.OpcodeMapIsTheSpecs := by
  unfold Obligations.OpcodeMapIsTheSpecs
  exact ⟨rfl, Op.mem_all, selectedOp_eq_some_iff, instrOf_op⟩

/-- Settles O3: each of the two rows is the one the decoder finds. -/
theorem aWordSelectsAtMostOneOperation : Obligations.AWordSelectsAtMostOneOperation := by
  unfold Obligations.AWordSelectsAtMostOneOperation
  intro w a b ha hb
  exact Option.some.inj ((selectedOp_of_selects ha).symm.trans (selectedOp_of_selects hb))

/-! ### What the decoder finds behind a word -/

theorem decodeWord_of_selects {w : Word} {o : Op} {tail : List Byte} (h : w &&& o.mask = o.pattern)
    (hl : payloadLength o w ≤ tail.length) :
    decodeWord w tail = .command (instrOf o w (tail.take (payloadLength o w))) (tail.drop (payloadLength o w)) := by
  unfold decodeWord
  rw [selectedOp_of_selects h]
  exact if_pos hl

/-- A word of no row is illegal, and nothing behind it is taken (R69). -/
theorem decodeWord_of_no_row {w : Word} (tail : List Byte) (h : ∀ o : Op, w &&& o.mask ≠ o.pattern) :
    decodeWord w tail = .reservedField (opcodeOf w) tail ∨ decodeWord w tail = .unassignedOpcode (opcodeOf w) tail := by
  unfold decodeWord
  rw [(selectedOp_eq_none_iff w).2 h]
  exact ite_eq_or_eq _ _ _

/-- A command comes from the row of its word, with its payload behind it. -/
theorem decodeWord_eq_command {w : Word} {tail rest : List Byte} {i : Instr} (h : decodeWord w tail = .command i rest) :
    ∃ o : Op, w &&& o.mask = o.pattern ∧ payloadLength o w ≤ tail.length ∧
      i = instrOf o w (tail.take (payloadLength o w)) ∧ rest = tail.drop (payloadLength o w) := by
  unfold decodeWord at h
  split at h
  · next o ho =>
    split at h
    · next hl =>
      injection h with hi hr
      exact ⟨o, selects_of_selectedOp ho, hl, hi.symm, hr.symm⟩
    · cases h
  · split at h <;> cases h

/-- A command on the port begins with the eight bytes of its word. -/
theorem decode_eq_command {bytes rest : List Byte} {i : Instr} (h : decode bytes = .command i rest) :
    ∃ w tail, bytes = wordBytes w ++ tail ∧ decodeWord w tail = .command i rest := by
  unfold decode at h
  split at h
  · next b0 b1 b2 b3 b4 b5 b6 b7 tail =>
    exact ⟨wordOfBytes b0 b1 b2 b3 b4 b5 b6 b7, tail, by rw [wordBytes_wordOfBytes]; rfl, h⟩
  · cases h

/-! ### Decoding inverts encoding -/

/-- The command word of an instruction is selected by the row of its operation. -/
theorem commandWord_selects (i : Instr) : commandWord i &&& i.op.mask = i.op.pattern := by
  cases i with
  | configure n => exact Laws.EncodedRow.configure n
  | getPort index freq mode order => exact Laws.EncodedRow.getPort index freq mode order
  | getGpio => exact Laws.EncodedRow.getGpio
  | terminate => exact Laws.EncodedRow.terminate
  | spiWrite index data d => exact Laws.EncodedRow.spiWrite index data d
  | spiRead index n d => exact Laws.EncodedRow.spiRead index n d
  | spiExchange index data n duplex d => exact Laws.EncodedRow.spiExchange index data n duplex d
  | gpioSetDirection m o => exact Laws.EncodedRow.gpioSetDirection m o
  | gpioWrite v => exact Laws.EncodedRow.gpioWrite v
  | gpioRead => exact Laws.EncodedRow.gpioRead

/-- The fields of a well-formed instruction's command word give the instruction back. -/
theorem commandWord_fields (i : Instr) : Laws.FieldsReadBack.Statement i := by
  cases i with
  | configure n => exact Laws.FieldsReadBack.configure n
  | getPort index freq mode order => exact Laws.FieldsReadBack.getPort index freq mode order
  | getGpio => exact Laws.FieldsReadBack.getGpio
  | terminate => exact Laws.FieldsReadBack.terminate
  | spiWrite index data d => exact Laws.FieldsReadBack.spiWrite index data d
  | spiRead index n d => exact Laws.FieldsReadBack.spiRead index n d
  | spiExchange index data n duplex d => exact Laws.FieldsReadBack.spiExchange index data n duplex d
  | gpioSetDirection m o => exact Laws.FieldsReadBack.gpioSetDirection m o
  | gpioWrite v => exact Laws.FieldsReadBack.gpioWrite v
  | gpioRead => exact Laws.FieldsReadBack.gpioRead

/-- Settles O4: the decoder sees the instruction's command word, finds its row, and takes the payload from behind it. -/
theorem decodeInvertsEncode : Obligations.DecodeInvertsEncode := by
  unfold Obligations.DecodeInvertsEncode
  intro i rest hw
  obtain ⟨hi, hl⟩ := commandWord_fields i hw
  have hle : payloadLength i.op (commandWord i) ≤ (i.payload ++ rest).length := by simp [hl]
  calc decode (encode i ++ rest)
      = decodeWord (commandWord i) (i.payload ++ rest) := by rw [encode, List.append_assoc, decode_wordBytes]
    _ = .command (instrOf i.op (commandWord i) i.payload) rest := by
        rw [decodeWord_of_selects (commandWord_selects i) hle, hl, List.take_left, List.drop_left]
    _ = .command i rest := by rw [hi]

/-! ### Encoding inverts decoding -/

/-- `len_out` is a 16-bit field, and the other rows have no payload. -/
theorem payloadLength_le_maxLen (o : Op) (w : Word) : payloadLength o w ≤ maxLen := by
  have hfield : (w.extractLsb' 16 16).toNat ≤ maxLen := Nat.le_of_lt_succ (BitVec.isLt _)
  cases o with
  | spiWrite | spiExchange => exact hfield
  | _ => exact Nat.zero_le _

/-- The instruction of a row carries the payload it was given. -/
theorem instrOf_payload {o : Op} {w : Word} {p : List Byte} (hp : p.length = payloadLength o w) : (instrOf o w p).payload = p := by
  cases o with
  | spiWrite | spiExchange => rfl
  | _ => exact (List.eq_nil_of_length_eq_zero hp).symm

/-- The encoding of a row's instruction is the word and the payload it was read from. -/
theorem encode_instrOf {o : Op} {w : Word} {p : List Byte} (h : w &&& o.mask = o.pattern) (hp : p.length = payloadLength o w) :
    encode (instrOf o w p) = wordBytes w ++ p := by
  rw [encode, commandWord_instrOf o w p h hp, instrOf_payload hp]

/-- Settles O5: the instruction comes from the row of the word at the front, and its encoding is that word and its payload. -/
theorem encodeInvertsDecode : Obligations.EncodeInvertsDecode := by
  unfold Obligations.EncodeInvertsDecode
  intro bytes rest i h
  obtain ⟨w, tail, rfl, hd⟩ := decode_eq_command h
  obtain ⟨o, hsel, hl, rfl, rfl⟩ := decodeWord_eq_command hd
  have hp : (tail.take (payloadLength o w)).length = payloadLength o w := List.length_take_of_le hl
  constructor
  · rw [Instr.wellFormed, instrOf_payload hp, hp]
    exact decide_eq_true (payloadLength_le_maxLen o w)
  · rw [encode_instrOf hsel hp, List.append_assoc, List.take_append_drop]

end Sys2Proof

namespace Sys2Proof.Machine

variable {s t : State}

/-! ### Illegal words -/

/-- With an illegal word at the front, a step is a fault after a TransportError and answers before one (R69, R184). -/
theorem runCommand_no_row {w : Word} {tail : List Byte} (hc : s.cmdIn = wordBytes w ++ tail)
    (h : ∀ o : Op, w &&& o.mask ≠ o.pattern) :
    runCommand s = if s.faulted = true then .fault .afterTransportError else .next (s.refuseWord tail) := by
  unfold runCommand
  rw [hc, decode_wordBytes]
  rcases decodeWord_of_no_row tail h with hd | hd <;> rw [hd]

/-- Settles O6: a word of no row is illegal; a word of a row with its payload is a command, which the step may run (O7). -/
theorem illegalWordsAreAnswered : Obligations.IllegalWordsAreAnswered := by
  unfold Obligations.IllegalWordsAreAnswered
  intro s w tail hr hc
  refine ⟨fun hno => ?_, fun o hsel hl => ?_⟩
  · rw [step_of_noReset hr, runCommand_no_row hc hno]
    refine ⟨fun hf => ?_, fun hf => if_pos hf⟩
    rw [if_neg (by simp [hf]), State.refuseWord, errorResponse_invalidArgument]
  · have hd := (decode_wordBytes w tail).trans (decodeWord_of_selects hsel hl)
    rw [← hc] at hd
    exact ⟨_, _, instrOf_op o w _, hd, (stepRunsTheDecodedCommand s _ _ hr hd).1⟩

/-! ### The transfers as exchanges -/

/-- Settles O37: SPI_WRITE is the second branch of SPI_EXCHANGE. -/
theorem writeIsExchangeWithoutReadPhase : Obligations.WriteIsExchangeWithoutReadPhase := by
  unfold Obligations.WriteIsExchangeWithoutReadPhase
  intro s index d data
  rw [exec_spiExchange_write index d data 0#16 rfl, exec_spiWrite]

/-- A read phase behind no byte is a read. -/
theorem halfDuplexBody_nil (k : Nat) (n : BitVec 16) (d : Nat) : halfDuplexBody k [] n d = readBody k n d := rfl

/-- A write of no byte is a read of none: no pulse, no sample. -/
theorem writeBody_nil (k d : Nat) : writeBody k [] d = readBody k 0#16 d := rfl

/-- Settles O38: with a byte to read SPI_EXCHANGE is all read phase; with none it is the empty write. -/
theorem readIsExchangeWithoutData : Obligations.ReadIsExchangeWithoutData := by
  unfold Obligations.ReadIsExchangeWithoutData
  intro s index d length
  rw [exec_spiRead]
  by_cases hl : length = 0#16
  · subst hl
    rw [exec_spiExchange_write index d [] 0#16 rfl, writeBody_nil]
    rfl
  · have hpos : 0 < length.toNat := Nat.pos_of_ne_zero fun h => hl (BitVec.eq_of_toNat_eq h)
    rw [exec_spiExchange_half index d [] length hpos, halfDuplexBody_nil]

/-! ### The layout of the responses -/

/-- The response is an error's, or a success's with `Q` of its value and payload. -/
def AnswersWith (Q : BitVec 16 → List Byte → Prop) (t : State) : Prop :=
  (∃ e, t.rsp = some (errorResponse e)) ∨ ∃ v p, t.rsp = some (okResponse v p) ∧ Q v p

/-- The success has value `v` and no payload. -/
def AnswersValue (v : BitVec 16) : State → Prop := AnswersWith fun v' p => v' = v ∧ p = []

/-- The success has as many payload bytes as its value says. -/
def AnswersBytes : State → Prop := AnswersWith fun v p => p.length = v.toNat

theorem answersWith_raise (Q : BitVec 16 → List Byte → Prop) (e : ErrorClass) (s : State) : AnswersWith Q (s.raise e) :=
  .inl ⟨e, rfl⟩

theorem answersWith_linkFailure (Q : BitVec 16 → List Byte → Prop) (a b : PinWord) (s : State) :
    AnswersWith Q (s.linkFailure a b) := .inl ⟨.transport, rfl⟩

theorem answersValue_answerOk (v : BitVec 16) (s : State) : AnswersValue v (s.answerOk v []) := .inr ⟨v, [], rfl, rfl, rfl⟩

theorem answersBytes_answerOk {v : BitVec 16} {p : List Byte} (h : p.length = v.toNat) (s : State) : AnswersBytes (s.answerOk v p) :=
  .inr ⟨v, p, rfl, h⟩

/-- R71 of both kinds of response. -/
theorem AnswersWith.layout {Q : BitVec 16 → List Byte → Prop} (h : AnswersWith Q t) :
    ∃ r, t.rsp = some r ∧ r.word.extractLsb' 24 8 ≤ 4#8 ∧ r.word.extractLsb' 16 8 = 0#8 ∧
      (r.word.extractLsb' 24 8 ≠ 0#8 → r.word.extractLsb' 0 16 = 0#16 ∧ r.payload = []) ∧
      (r.word.extractLsb' 24 8 = 0#8 → Q (r.word.extractLsb' 0 16) r.payload) := by
  rcases h with ⟨e, he⟩ | ⟨v, p, hok, hQ⟩
  · have hcode : e.code ≤ 4#8 ∧ e.code ≠ 0#8 := by cases e <;> decide
    exact ⟨_, he, by simpa using hcode.1, by simp, by simp, by simp [hcode.2]⟩
  · exact ⟨_, hok, by simp, by simp, by simp, by simpa using hQ⟩

theorem exec_configure_answers {n : BitVec 8} (h : exec (.configure n) s = .next t) : AnswersValue 0#16 t := by
  rcases exec_configure_inv h with ⟨-, rfl⟩ | ⟨-, -, -, -, rfl⟩ | ⟨-, -, -, -, rfl⟩
  · exact answersWith_raise ..
  · exact answersWith_raise ..
  · exact answersValue_answerOk ..

theorem exec_getPort_answers {index : BitVec 8} {freq : BitVec 32} {mode : Mode} {order : BitOrder}
    (h : exec (.getPort index freq mode order) s = .next t) : AnswersValue (index.setWidth 16) t := by
  rcases exec_getPort_inv h with ⟨-, rfl⟩ | ⟨-, -, -, -, rfl⟩
  · exact answersWith_raise ..
  · exact answersValue_answerOk ..

/-- GET_GPIO answers the claim of the state after (R84). -/
theorem exec_getGpio_answers (h : exec .getGpio s = .next t) : AnswersValue t.gpioClaim t := by
  rcases exec_getGpio_inv h with ⟨-, rfl⟩ | ⟨-, -, rfl⟩ | ⟨-, -, -, rfl⟩
  · exact answersWith_raise ..
  · exact answersValue_answerOk s.gpioClaim s
  · exact answersValue_answerOk s.claimGpio.gpioClaim s.claimGpio

theorem exec_terminate_answers (h : exec .terminate s = .next t) : AnswersValue 0#16 t := by
  obtain rfl := exec_terminate_inv h
  exact answersValue_answerOk ..

theorem exec_gpioSetDirection_answers {m o : PinWord} (h : exec (.gpioSetDirection m o) s = .next t) : AnswersValue 0#16 t := by
  rcases exec_gpioSetDirection_inv h with ⟨e, rfl, -⟩ | ⟨-, -, -, rfl⟩ | ⟨-, -, -, rfl⟩
  · exact answersWith_raise ..
  · exact answersWith_linkFailure ..
  · exact answersValue_answerOk ..

theorem exec_gpioWrite_answers {v : PinWord} (h : exec (.gpioWrite v) s = .next t) : AnswersValue 0#16 t := by
  rcases exec_gpioWrite_inv h with ⟨e, rfl, -⟩ | ⟨-, -, -, rfl⟩ | ⟨-, -, -, rfl⟩
  · exact answersWith_raise ..
  · exact answersWith_linkFailure ..
  · exact answersValue_answerOk ..

/-- GPIO_READ answers the snapshot of the claimed pins (R166); asking the link does not change it. -/
theorem exec_gpioRead_answers (h : exec .gpioRead s = .next t) : AnswersValue (s.samplePins s.gpioClaim).1 t := by
  rcases exec_gpioRead_inv h with ⟨e, -, rfl⟩ | ⟨-, -, rfl⟩ | ⟨-, -, rfl⟩
  · exact answersWith_raise ..
  · exact answersWith_linkFailure ..
  · rw [State.linkAsked_samplePins_fst]
    exact answersValue_answerOk ..

/-- A transfer answers as its body does, or an error. -/
theorem transfer_answers {Q : BitVec 16 → List Byte → Prop} {body : State → State} (hb : ∀ u, AnswersWith Q (body u))
    (index d : BitVec 8) (len : Nat) (s : State) : AnswersWith Q (transfer index d len body s) := by
  rcases transfer_cases index d len body s with ⟨e, -, ht⟩ | ⟨-, -, ht⟩ | ⟨-, -, ht⟩ <;> rw [ht]
  · exact answersWith_raise ..
  · exact answersWith_linkFailure ..
  · exact hb _

theorem writeBody_answers (k : Nat) (data : List Byte) (d : Nat) (s : State) : AnswersValue 0#16 (writeBody k data d s) :=
  answersValue_answerOk ..

theorem writeBody_answersBytes (k : Nat) (data : List Byte) (d : Nat) (s : State) : AnswersBytes (writeBody k data d s) :=
  answersBytes_answerOk rfl _

theorem readBody_answers (k : Nat) (n : BitVec 16) (d : Nat) (s : State) : AnswersBytes (readBody k n d s) :=
  answersBytes_answerOk (rxbytes_length _ _ _ _ (by simp)) _

theorem halfDuplexBody_answers (k : Nat) (data : List Byte) (n : BitVec 16) (d : Nat) (s : State) :
    AnswersBytes (halfDuplexBody k data n d s) := answersBytes_answerOk (rxbytes_length _ _ _ _ (by simp)) _

/-- The value of a duplex exchange is the length of its payload, since that length fits 16 bits (R62). -/
theorem duplexBody_answers (k : Nat) {data : List Byte} (hl : data.length ≤ maxLen) (d : Nat) (s : State) :
    AnswersBytes (duplexBody k data d s) := by
  refine answersBytes_answerOk ?_ _
  rw [Laws.FieldsReadBack.toNat_payload hl]
  exact rxbytes_length _ _ _ _ (by simp [txbits_length])

theorem exec_spiWrite_answers {index d : BitVec 8} {data : List Byte} (h : exec (.spiWrite index data d) s = .next t) :
    AnswersValue 0#16 t := by
  obtain rfl := Host.Outcome.next.inj ((exec_spiWrite index d data s).symm.trans h)
  exact transfer_answers (writeBody_answers _ _ _) ..

theorem exec_spiRead_answers {index d : BitVec 8} {n : BitVec 16} (h : exec (.spiRead index n d) s = .next t) : AnswersBytes t := by
  obtain rfl := Host.Outcome.next.inj ((exec_spiRead index d n s).symm.trans h)
  exact transfer_answers (readBody_answers _ _ _) ..

/-- The three branches of SPI_EXCHANGE (R144); the second answers no byte and value 0. -/
theorem exec_spiExchange_answers {index d : BitVec 8} {data : List Byte} {n : BitVec 16} {duplex : Bool}
    (hl : data.length ≤ maxLen) (h : exec (.spiExchange index data n duplex d) s = .next t) : AnswersBytes t := by
  cases duplex with
  | true =>
    obtain rfl := Host.Outcome.next.inj ((exec_spiExchange_duplex index d data n s).symm.trans h)
    exact transfer_answers (duplexBody_answers _ hl _) ..
  | false =>
    rcases Nat.eq_zero_or_pos n.toNat with hn | hn
    · obtain rfl := Host.Outcome.next.inj ((exec_spiExchange_write index d data n hn s).symm.trans h)
      exact transfer_answers (writeBody_answersBytes _ _ _) ..
    · obtain rfl := Host.Outcome.next.inj ((exec_spiExchange_half index d data n hn s).symm.trans h)
      exact transfer_answers (halfDuplexBody_answers _ _ _ _) ..

/-- Settles O57: what each operation answers, and the layout of any answer. -/
theorem responsesHaveTheLayout : Obligations.ResponsesHaveTheLayout := by
  unfold Obligations.ResponsesHaveTheLayout
  intro s i hw
  obtain ⟨t, ht⟩ := exec_next i s
  refine ⟨t, exists_and_left.2 ⟨ht, ?_⟩⟩
  cases i with
  | configure n => exact (exec_configure_answers ht).layout
  | getPort index freq mode order => exact (exec_getPort_answers ht).layout
  | getGpio => exact (exec_getGpio_answers ht).layout
  | terminate => exact (exec_terminate_answers ht).layout
  | spiWrite index data d => exact (exec_spiWrite_answers ht).layout
  | spiRead index n d => exact (exec_spiRead_answers ht).layout
  | spiExchange index data n duplex d => exact (exec_spiExchange_answers (of_decide_eq_true hw) ht).layout
  | gpioSetDirection m o => exact (exec_gpioSetDirection_answers ht).layout
  | gpioWrite v => exact (exec_gpioWrite_answers ht).layout
  | gpioRead => exact (exec_gpioRead_answers ht).layout

end Sys2Proof.Machine

/-! PROOFS. The controller operations (40_lifecycle.md): CONFIGURE, GET_PORT, GET_GPIO and TERMINATE (O11, O12, O13, O14), what a
closed block rejects (O15), the partition of the pins (O16), and how long ports and bank last (O17). -/

namespace Sys2Proof.Machine

variable {s t : State}

/-! ### Responses written out -/

theorem State.raise_configuration (s : State) : s.raise .configuration = { s with rsp := some ⟨0x01000000#32, []⟩ } := by
  rw [State.raise_eq, errorResponse_configuration]

theorem State.raise_invalidArgument (s : State) : s.raise .invalidArgument = { s with rsp := some ⟨0x02000000#32, []⟩ } := by
  rw [State.raise_eq, errorResponse_invalidArgument]

theorem State.answerOk_eq (v : BitVec 16) (p : List Byte) (s : State) :
    s.answerOk v p = { s with rsp := some ⟨v.setWidth 32, p⟩ } := by
  rw [State.answerOk, okResponse_eq]; rfl

/-! ### CONFIGURE -/

/-- The roles of clock, data out and data in (R80). -/
theorem roleAt_sckPin (c : Params) (n : Nat) : roleAt c n c.sckPin = .sck := by
  simp only [roleAt, if_true]

theorem roleAt_mosiPin {c : Params} (hv : c.valid = true) (n : Nat) : roleAt c n c.mosiPin = .mosi := by
  have hv := (Params.valid_iff c).1 hv
  unfold roleAt
  rw [if_neg (by omega), if_pos rfl]

theorem roleAt_misoPin {c : Params} (hv : c.valid = true) (n : Nat) : roleAt c n c.misoPin = .miso := by
  have hv := (Params.valid_iff c).1 hv
  unfold roleAt
  rw [if_neg (by omega), if_neg (by omega), if_pos rfl]

/-- Owner, enable and latch of a pin after CONFIGURE are those of its role; a pin outside the bank has none (R80). -/
theorem openBlock_pin {n : BitVec 8} {p : Nat} {r : Owner} (hw : s.par.w ≤ 16) (hr : roleAt s.par n.toNat p = r)
    (hp : p < s.par.w ∨ r = .free) :
    (s.openBlock n).ownerOf p = r ∧ (s.openBlock n).oe.getLsbD p = roleDriven r ∧
      (s.openBlock n).drv.getLsbD p = roleLevel s.par r := by
  rw [ownerOf_openBlock, openBlock_oe n hw, openBlock_drv n hw, hr]
  by_cases h : p < s.par.w
  · simp [h]
  · obtain rfl := hp.resolve_left h
    simp [h, roleDriven, roleLevel]

/-- CONFIGURE fails one of its first two checks (R80). -/
theorem exec_configure_rejected {n : BitVec 8} (h : s.isOpen = true ∨ n.toNat < 1 ∨ s.par.csMax < n.toNat) :
    exec (.configure n) s = .next (s.raise .configuration) := by
  obtain ⟨t, ht⟩ := exec_next (.configure n) s
  rcases exec_configure_inv ht with ⟨-, rfl⟩ | ⟨ho, h1, h2, -⟩ | ⟨ho, h1, h2, -⟩
  · exact ht
  all_goals
    simp only [ho, Bool.false_eq_true, false_or] at h
    omega

/-- CONFIGURE passes its first two checks and asks for the device (R80). -/
theorem exec_configure_asks {n : BitVec 8} (ho : s.isOpen = false) (h1 : 1 ≤ n.toNat) (hn : n.toNat ≤ s.par.csMax) :
    exec (.configure n) s = .next (if s.devicePresent = false then s.deviceAsked.raise .configuration
      else (s.deviceAsked.openBlock n).answerOk 0#16 []) := by
  have hb : ¬ (n.toNat < 1 ∨ s.par.csMax < n.toNat) := by omega
  simp only [exec, execConfigure, ho, hb, Bool.false_eq_true, if_false]

/-- Settles O11: the pins by role (`openBlock_pin`), the registers by definition. -/
theorem configureOpensTheBlock : Obligations.ConfigureOpensTheBlock := by
  unfold Obligations.ConfigureOpensTheBlock
  intro s n hv
  refine ⟨fun h => ?_, fun ho h1 hn hd => ?_, fun ho h1 hn hd => ?_⟩
  · rw [exec_configure_rejected h, State.raise_configuration]
  · rw [exec_configure_asks ho h1 hn, if_pos hd, State.raise_configuration]
    rfl
  · have hpar := (Params.valid_iff _).1 hv
    have hpin {p : Nat} {r : Owner} (hr : roleAt s.par n.toNat p = r) (hp : p < s.par.w ∨ r = .free) :=
      openBlock_pin (s := s.deviceAsked) (show s.par.w ≤ 16 by omega) hr hp
    refine ⟨(s.deviceAsked.openBlock n).answerOk 0#16 [], ?_, ?_, rfl, rfl, rfl, rfl, rfl, rfl, rfl, ?_, ?_, ?_, ?_, ?_, rfl⟩
    · rw [exec_configure_asks ho h1 hn, if_neg (by simp [hd])]
    · rw [State.answerOk_rsp, okResponse_eq]; rfl
    · exact hpin (roleAt_sckPin s.par n.toNat) (.inl (by omega))
    · exact hpin (roleAt_mosiPin hv n.toNat) (.inl (by omega))
    · exact hpin (roleAt_misoPin hv n.toNat) (.inl (by omega))
    · intro k hk
      exact hpin (roleAt_csPin hv hk hn) (.inl (by simp only [Params.csPin]; omega))
    · intro p h1 h2 h3 h4
      exact hpin (roleAt_other h1 h2 h3 h4) (.inr rfl)

/-! ### GET_PORT -/

/-- Writing `PORT[k]` is seen at `k` alone. -/
theorem portAt_setPort_same {k : Nat} (q : Port) (s : State) (h : k < s.ports.length) :
    State.portAt { s with ports := s.ports.set k q } k = q := by
  simp [State.portAt, h]

theorem exec_getPort_rejected {index : BitVec 8} {freq : BitVec 32} (mode : Mode) (order : BitOrder)
    (h : s.isOpen = false ∨ s.csCount.toNat ≤ index.toNat ∨ freq.toNat = 0 ∨ s.par.fMax < freq.toNat) :
    exec (.getPort index freq mode order) s = .next (s.raise .configuration) := by
  obtain ⟨t, ht⟩ := exec_next (.getPort index freq mode order) s
  rcases exec_getPort_inv ht with ⟨-, rfl⟩ | ⟨ho, hk, h1, h2, -⟩
  · exact ht
  · simp only [ho, Bool.true_eq_false, false_or] at h
    omega

theorem exec_getPort_creates {index : BitVec 8} {freq : BitVec 32} (mode : Mode) (order : BitOrder) (ho : s.isOpen = true)
    (hk : index.toNat < s.csCount.toNat) (h1 : 1 ≤ freq.toNat) (h2 : freq.toNat ≤ s.par.fMax) :
    exec (.getPort index freq mode order) s = .next (State.answerOk (index.setWidth 16) []
      { s with ports := s.ports.set index.toNat ⟨true, mode, order, freq⟩ }) := by
  obtain ⟨t, ht⟩ := exec_next (.getPort index freq mode order) s
  rcases exec_getPort_inv ht with ⟨h, -⟩ | ⟨-, -, -, -, rfl⟩
  · simp only [ho, Bool.true_eq_false, false_or] at h
    omega
  · exact ht

/-- Settles O12: the invariant says that every index below `CS_COUNT` has an entry in the port table. -/
theorem getPortCreatesTheDescriptor : Obligations.GetPortCreatesTheDescriptor := by
  unfold Obligations.GetPortCreatesTheDescriptor
  intro s index freq mode order hi
  refine ⟨fun h => ?_, fun ho hk h1 h2 => ?_⟩
  · rw [exec_getPort_rejected mode order h, State.raise_configuration]
  · have hlen : index.toNat < s.ports.length := by
      rw [hi.portsLength]
      have := (hi.countOpen ho).2
      omega
    refine ⟨_, exec_getPort_creates mode order ho hk h1 h2, ?_, portAt_setPort_same _ s hlen,
      fun k hne => portAt_setPort_of_ne _ hne.symm s, rfl⟩
    rw [State.answerOk_rsp, okResponse_eq, BitVec.setWidth_setWidth (by decide)]

/-! ### GET_GPIO -/

theorem exec_getGpio_rejected (h : s.isOpen = false ∨ s.gpioClaimed = false ∧ s.anyPort = false) :
    exec .getGpio s = .next (s.raise .configuration) := by
  obtain ⟨t, ht⟩ := exec_next .getGpio s
  rcases exec_getGpio_inv ht with ⟨-, rfl⟩ | ⟨ho, hg, -⟩ | ⟨ho, -, ha, -⟩
  · exact ht
  · simp [ho, hg] at h
  · simp [ho, ha] at h

theorem exec_getGpio_again (ho : s.isOpen = true) (hg : s.gpioClaimed = true) :
    exec .getGpio s = .next (s.answerOk s.gpioClaim []) := by
  simp only [exec, execGetGpio, ho, hg, Bool.true_eq_false, if_true, if_false]

theorem exec_getGpio_claims (ho : s.isOpen = true) (hg : s.gpioClaimed = false) (ha : s.anyPort = true) :
    exec .getGpio s = .next (s.claimGpio.answerOk s.claimGpio.gpioClaim []) := by
  simp only [exec, execGetGpio, ho, hg, ha, Bool.true_eq_false, Bool.false_eq_true, if_false]

/-- A block without a valid port below `CS_COUNT` has no port (R84). -/
theorem State.anyPort_eq_false (h : ∀ k, k < s.csCount.toNat → (s.portAt k).valid = false) : s.anyPort = false := by
  simpa [State.anyPort] using h

/-- The claim, the ledger being as long as the bank is wide (R84). -/
theorem Inv.ownerOf_claimGpio (h : Inv s) {p : Nat} (hp : p < s.par.w) :
    s.claimGpio.ownerOf p = if s.ownerOf p = .free then .gpio else s.ownerOf p := by
  rw [Machine.ownerOf_claimGpio, h.ownerLength]
  simp [hp]

/-- Settles O13: the four cases of R84. -/
theorem getGpioClaimsTheFreePins : Obligations.GetGpioClaimsTheFreePins := by
  unfold Obligations.GetGpioClaimsTheFreePins
  intro s hi
  refine ⟨fun hc => ?_, fun ho hg => ?_, fun ho hg hno => ?_, fun ho hg hany => ?_⟩
  · rw [exec_getGpio_rejected (.inl hc), State.raise_configuration]
  · rw [exec_getGpio_again ho hg, State.answerOk_eq]
  · rw [exec_getGpio_rejected (.inr ⟨hg, State.anyPort_eq_false hno⟩), State.raise_configuration]
  · refine ⟨_, exec_getGpio_claims ho hg (s.anyPort_iff.2 hany), ?_, fun p hp => hi.ownerOf_claimGpio hp, rfl⟩
    rw [State.answerOk_rsp, okResponse_eq]
    rfl

/-- A pin of an open block has an SPI role or the one role of all the rest (R14). -/
theorem Inv.owner_spi_or_rest (h : Inv s) (ho : s.isOpen = true) {p : Nat} (hp : p < s.par.w) :
    (s.ownerOf p).isSpi = true ∨ s.ownerOf p = if s.gpioClaimed then .gpio else .free := by
  by_cases h1 : p = s.par.sckPin
  · exact .inl (by rw [h1, h.ledgerSck ho]; rfl)
  by_cases h2 : p = s.par.mosiPin
  · exact .inl (by rw [h2, h.ledgerMosi ho]; rfl)
  by_cases h3 : p = s.par.misoPin
  · exact .inl (by rw [h3, h.ledgerMiso ho]; rfl)
  by_cases h4 : ∀ k, k < s.csCount.toNat → p ≠ s.par.csPin k
  · exact .inr (h.ledgerRest ho p hp h1 h2 h3 h4)
  · push Not at h4
    obtain ⟨k, hk, rfl⟩ := h4
    exact .inl (by rw [h.ledgerCs ho k hk]; rfl)

/-- Every pin of the bank has an SPI role or is the bank's (R85). -/
def Partitioned (s : State) : Prop := ∀ p, p < s.par.w → (s.ownerOf p).isSpi = true ∨ s.ownerOf p = .gpio

/-- The masks of a partition (R14, R85). -/
theorem Partitioned.masks (h : Partitioned s) (hw : s.par.w ≤ 16) :
    s.spiClaim &&& s.gpioClaim = 0#16 ∧ ∀ p, (s.spiClaim ||| s.gpioClaim).getLsbD p = decide (p < s.par.w) := by
  refine ⟨pinWord_ext fun p _ => ?_, fun p => ?_⟩
  · rw [BitVec.getLsbD_and, getLsbD_spiClaim s hw, getLsbD_gpioClaim s hw]
    cases s.ownerOf p <;> simp [Owner.isSpi]
  · rw [BitVec.getLsbD_or, getLsbD_spiClaim s hw, getLsbD_gpioClaim s hw]
    by_cases hp : p < s.par.w
    · rcases h p hp with hs | hg
      · simp [hp, hs]
      · simp [hp, hg]
    · simp [hp]

/-- After the claim of an earlier GET_GPIO. -/
theorem Inv.partitioned_of_claimed (h : Inv s) (ho : s.isOpen = true) (hg : s.gpioClaimed = true) : Partitioned s :=
  fun p hp => by simpa [hg] using h.owner_spi_or_rest ho hp

/-- After the claim of this one: what was not SPI was FREE. -/
theorem Inv.partitioned_claimGpio (h : Inv s) (ho : s.isOpen = true) (hg : s.gpioClaimed = false) : Partitioned s.claimGpio := by
  intro p hp
  rw [h.ownerOf_claimGpio hp]
  rcases h.owner_spi_or_rest ho hp with hs | hf
  · left
    rwa [if_neg (by intro hf; rw [hf] at hs; cases hs)]
  · right
    rw [if_pos (by simpa [hg] using hf)]

/-- Settles O16: the first call partitions the pins, and a later one finds them so. -/
theorem partitionIsTotalAfterGetGpio : Obligations.PartitionIsTotalAfterGetGpio := by
  unfold Obligations.PartitionIsTotalAfterGetGpio
  intro s hi ho hany
  cases hg : s.gpioClaimed with
  | true => exact ⟨_, exec_getGpio_again ho hg, (hi.partitioned_of_claimed ho hg).masks hi.width⟩
  | false =>
    exact ⟨_, exec_getGpio_claims ho hg (s.anyPort_iff.2 hany), (hi.partitioned_claimGpio ho hg).masks hi.width⟩

/-! ### TERMINATE, the closed block, and what lasts until TERMINATE -/

/-- Settles O14: the table of R35 is `atReset_closeBlock`; the rest is as TERMINATE writes or leaves it. -/
theorem terminateReleasesEverything : Obligations.TerminateReleasesEverything := by
  unfold Obligations.TerminateReleasesEverything
  intro s
  refine ⟨s.closeBlock.answerOk 0#16 [], rfl, ?_, (atReset_closeBlock s).answer _, rfl, rfl, rfl, ⟨rfl, rfl, rfl⟩, rfl, rfl, rfl, rfl⟩
  rw [State.answerOk_rsp, okResponse_eq]
  rfl

theorem checkGpio_of_closed (h : s.isOpen = false) : checkGpio s = some .configuration := by
  simp only [checkGpio, h, if_true]

/-- A transfer on a closed block fails a check on its fields, or the check on the block (R146). -/
theorem exec_transfer_of_closed {i : Instr} {index d : BitVec 8} {len : Nat} (hi : IsTransfer i index d len)
    (hc : s.isOpen = false) :
    (LegalFields d len → exec i s = .next (s.raise .configuration)) ∧
      (¬ LegalFields d len → exec i s = .next (s.raise .invalidArgument)) := by
  have hopen : checkXfer index d len s ≠ none := fun hn => by
    obtain ⟨-, ho, -, -⟩ := (checkXfer_none_iff ..).1 hn
    rw [hc] at ho
    cases ho
  rcases exec_transfer_cases hi s with ⟨e, he, hx⟩ | ⟨hn, -⟩ | ⟨hn, -⟩
  · rcases checkXfer_some he with ⟨rfl, hl⟩ | ⟨rfl, hl, -⟩
    · exact ⟨fun h => absurd h hl, fun _ => hx⟩
    · exact ⟨fun _ => hx, fun h => absurd hl h⟩
  all_goals exact absurd hn hopen

/-- Settles O15: a transfer by `exec_transfer_of_closed`; every other operation asks first whether the block is open. -/
theorem closedBlockRejectsOperations : Obligations.ClosedBlockRejectsOperations := by
  unfold Obligations.ClosedBlockRejectsOperations
  intro s i hc hconf hterm
  rw [← State.raise_configuration, ← State.raise_invalidArgument]
  refine ⟨fun hl => ?_, fun index d len hi hl => (exec_transfer_of_closed hi hc).2 hl⟩
  have hg := checkGpio_of_closed hc
  rcases isTransfer_or i with ⟨index, d, len, hi⟩ | ⟨n, rfl⟩ | ⟨index, freq, mode, order, rfl⟩ | rfl | rfl | ⟨m, o, rfl⟩ | ⟨v, rfl⟩ | rfl
  · exact (exec_transfer_of_closed hi hc).1 (hl index d len hi)
  · exact absurd rfl (hconf n)
  · exact exec_getPort_rejected mode order (.inl hc)
  · exact exec_getGpio_rejected (.inl hc)
  · exact absurd rfl hterm
  · simp only [exec, execGpioSetDirection, hg]
  · simp only [exec, execGpioWrite, hg]
  · simp only [exec, execGpioRead, hg]

/-- A port that is valid stays so, and so does the bank's claim (R88). -/
def Lasts (s t : State) : Prop :=
  (∀ k, (s.portAt k).valid = true → (t.portAt k).valid = true) ∧ (s.gpioClaimed = true → t.gpioClaimed = true)

theorem SameRegisters.lasts (h : SameRegisters s t) : Lasts s t :=
  ⟨fun k hk => by rw [h.portAt_eq, hk], fun hg => by rw [h.gpioClaimed, hg]⟩

/-- A closed block has no port and no bank to take away (R14, R16). -/
theorem Inv.lasts_of_closed (h : Inv s) (hc : s.isOpen = false) (t : State) : Lasts s t := by
  refine ⟨fun k hk => ?_, fun hg => ?_⟩
  · obtain ⟨hlt, -, -⟩ := h.portRange k hk
    simp [h.countClosed hc] at hlt
  · obtain ⟨ho, -⟩ := h.claimedPort hg
    rw [hc] at ho
    cases ho

/-- GET_PORT makes one port valid and touches no other. -/
theorem lasts_setPort (k : Nat) (q : Port) (hq : q.valid = true) (s : State) : Lasts s { s with ports := s.ports.set k q } := by
  refine ⟨fun j hj => ?_, id⟩
  by_cases hjk : k = j
  · subst hjk
    by_cases hlen : k < s.ports.length
    · rw [portAt_setPort_same q s hlen, hq]
    · rw [List.set_eq_of_length_le (Nat.not_lt.1 hlen)]
      exact hj
  · rw [portAt_setPort_of_ne q hjk]
    exact hj

/-- CONFIGURE takes ports away, but on an open block it does nothing (R80). -/
theorem lasts_exec_configure {n : BitVec 8} (hi : Inv s) (h : exec (.configure n) s = .next t) : Lasts s t := by
  cases hc : s.isOpen with
  | false => exact hi.lasts_of_closed hc t
  | true =>
    obtain rfl := Host.Outcome.next.inj (h.symm.trans (exec_configure_rejected (.inl hc)))
    exact (sameRegisters_raise _ s).lasts

theorem Lasts.trans {u : State} (h : Lasts s t) (h' : Lasts t u) : Lasts s u := by
  obtain ⟨hp, hg⟩ := h
  obtain ⟨hp', hg'⟩ := h'
  exact ⟨fun k hk => hp' k (hp k hk), fun hc => hg' (hg hc)⟩

/-- Settles O17: operation by operation, from the registers each one leaves. -/
theorem portsAndBankLastUntilTerminate : Obligations.PortsAndBankLastUntilTerminate := by
  unfold Obligations.PortsAndBankLastUntilTerminate
  intro s t i hi h hterm
  show Lasts s t
  cases exec_registersAfter h with
  | same hr => exact hr.lasts
  | configure _ => exact lasts_exec_configure hi h
  | getPort hr => exact (lasts_setPort _ _ rfl s).trans hr.lasts
  | getGpio hr => exact (show Lasts s s.claimGpio from ⟨fun _ hk => hk, fun _ => rfl⟩).trans hr.lasts
  | terminate _ => exact absurd rfl hterm
  | gpioSetDirection hr => exact Lasts.trans ⟨fun _ => id, id⟩ hr.lasts
  | gpioWrite hr => exact Lasts.trans ⟨fun _ => id, id⟩ hr.lasts

end Sys2Proof.Machine

/-! PROOFS. No operation reads a stored frequency (R83, O44): every operation but GET_PORT commutes with forgetting them, and
GET_PORT leaves a new one, which is then forgotten too. -/

namespace Sys2Proof.Machine

variable {s t : State}

/-! ### What is read of a descriptor -/

theorem eraseFreq_portAt (s : State) (k : Nat) : (eraseFreq s).portAt k = { s.portAt k with freq := 0#32 } := by
  simp only [State.portAt, eraseFreq, List.getD_eq_getElem?_getD, List.getElem?_map]
  cases s.ports[k]? <;> rfl

@[simp] theorem eraseFreq_portAt_valid (s : State) (k : Nat) : ((eraseFreq s).portAt k).valid = (s.portAt k).valid := by
  rw [eraseFreq_portAt]

@[simp] theorem eraseFreq_portAt_mode (s : State) (k : Nat) : ((eraseFreq s).portAt k).mode = (s.portAt k).mode := by
  rw [eraseFreq_portAt]

@[simp] theorem eraseFreq_portAt_order (s : State) (k : Nat) : ((eraseFreq s).portAt k).order = (s.portAt k).order := by
  rw [eraseFreq_portAt]

@[simp] theorem anyPort_eraseFreq (s : State) : (eraseFreq s).anyPort = s.anyPort := by
  simp only [State.anyPort, eraseFreq_portAt_valid]
  rfl

@[simp] theorem checkXfer_eraseFreq (index d : BitVec 8) (len : Nat) (s : State) :
    checkXfer index d len (eraseFreq s) = checkXfer index d len s := by
  simp only [checkXfer, eraseFreq_portAt_valid]
  rfl

@[simp] theorem eraseFreq_eraseFreq (s : State) : eraseFreq (eraseFreq s) = eraseFreq s := by
  simp [eraseFreq, Function.comp_def]

/-! ### The state operations that do not look at the port table -/

section
variable (s : State)

@[simp] theorem eraseFreq_par : (eraseFreq s).par = s.par := rfl
@[simp] theorem gpioClaim_eraseFreq : (eraseFreq s).gpioClaim = s.gpioClaim := rfl
@[simp] theorem eraseFreq_seq : (eraseFreq s).seq = s.seq := rfl
@[simp] theorem pinDrive_eraseFreq (p : Nat) (v : Bool) : (eraseFreq s).pinDrive p v = eraseFreq (s.pinDrive p v) := rfl
@[simp] theorem record_eraseFreq (b : Option Bool) : (eraseFreq s).record b = eraseFreq (s.record b) := rfl
@[simp] theorem pulseDone_eraseFreq : (eraseFreq s).pulseDone = eraseFreq s.pulseDone := rfl
@[simp] theorem answerOk_eraseFreq (v : BitVec 16) (p : List Byte) : (eraseFreq s).answerOk v p = eraseFreq (s.answerOk v p) := rfl

@[simp] theorem envAsked_eraseFreq : (eraseFreq s).envAsked = eraseFreq s.envAsked := by
  cases h : s.envIn <;> simp [State.envAsked, eraseFreq, h]

@[simp] theorem samplePins_eraseFreq (m : PinWord) :
    (eraseFreq s).samplePins m = ((s.samplePins m).1, eraseFreq (s.samplePins m).2) := by
  unfold State.samplePins
  rw [envAsked_eraseFreq]
  by_cases h : m &&& ~~~s.oe = 0#16
  · rw [if_pos h, if_pos (show m &&& ~~~(eraseFreq s).oe = 0#16 from h)]
    rfl
  · rw [if_neg h, if_neg (show ¬ m &&& ~~~(eraseFreq s).oe = 0#16 from h)]
    rfl

@[simp] theorem sampleMiso_eraseFreq : (eraseFreq s).sampleMiso = (s.sampleMiso.1, eraseFreq s.sampleMiso.2) := by
  simp only [State.sampleMiso, State.pinSample, eraseFreq_par, samplePins_eraseFreq, record_eraseFreq]

/-! `XFER`, micro-step by micro-step (R124). -/

theorem setupStep_eraseFreq (k n : Nat) (m : Mode) : setupStep k n m (eraseFreq s) = eraseFreq (setupStep k n m s) := rfl

theorem selectStep_eraseFreq (k n : Nat) : selectStep k n (eraseFreq s) = eraseFreq (selectStep k n s) := by
  unfold selectStep
  split <;> rfl

theorem pulse_eraseFreq (m : Mode) (b : Bool) : pulse m b (eraseFreq s) = ((pulse m b s).1, eraseFreq (pulse m b s).2) := by
  cases h : cpha m <;>
    simp only [pulse, h, eraseFreq_par, pinDrive_eraseFreq, record_eraseFreq, pulseDone_eraseFreq, sampleMiso_eraseFreq]

theorem shiftBits_eraseFreq (m : Mode) (o : List Bool) :
    shiftBits m o (eraseFreq s) = ((shiftBits m o s).1, eraseFreq (shiftBits m o s).2) := by
  induction o generalizing s with
  | nil => rfl
  | cons b rest ih => simp only [shiftBits, pulse_eraseFreq, ih]

theorem deselectStep_eraseFreq (k : Nat) : deselectStep k (eraseFreq s) = eraseFreq (deselectStep k s) := rfl

theorem parkStep_eraseFreq (before : Seq) : parkStep before (eraseFreq s) = eraseFreq (parkStep before s) := rfl

/-- The port's mode is all of the descriptor that a transfer reads. -/
@[simp] theorem xfer_eraseFreq (k : Nat) (o : List Bool) :
    xfer k o (eraseFreq s) = ((xfer k o s).1, eraseFreq (xfer k o s).2) := by
  simp only [xfer, eraseFreq_portAt_mode, eraseFreq_seq, setupStep_eraseFreq, selectStep_eraseFreq, shiftBits_eraseFreq,
    deselectStep_eraseFreq, parkStep_eraseFreq]

end

/-! ### The transfers -/

/-- An effect that the stored frequencies do not change. -/
def FreqBlind (f : State → State) : Prop := ∀ s, f (eraseFreq s) = eraseFreq (f s)

theorem writeBody_freqBlind (k : Nat) (data : List Byte) (d : Nat) : FreqBlind (writeBody k data d) := fun s => by
  simp only [writeBody, eraseFreq_portAt_order, xfer_eraseFreq, answerOk_eraseFreq]

theorem readBody_freqBlind (k : Nat) (n : BitVec 16) (d : Nat) : FreqBlind (readBody k n d) := fun s => by
  simp only [readBody, eraseFreq_portAt_order, xfer_eraseFreq, answerOk_eraseFreq]

theorem halfDuplexBody_freqBlind (k : Nat) (data : List Byte) (n : BitVec 16) (d : Nat) : FreqBlind (halfDuplexBody k data n d) :=
  fun s => by simp only [halfDuplexBody, eraseFreq_portAt_order, xfer_eraseFreq, answerOk_eraseFreq]

theorem duplexBody_freqBlind (k : Nat) (data : List Byte) (d : Nat) : FreqBlind (duplexBody k data d) := fun s => by
  simp only [duplexBody, eraseFreq_portAt_order, xfer_eraseFreq, answerOk_eraseFreq]

theorem linkFailure_freqBlind (a b : PinWord) : FreqBlind (State.linkFailure a b) := fun _ => rfl

theorem FreqBlind.askLink {failure body : State → State} (hf : FreqBlind failure) (hb : FreqBlind body) :
    FreqBlind (State.askLink failure body) := by
  intro s
  rcases State.askLink_cases failure body s with ⟨hl, he⟩ | ⟨hl, he⟩
  · rw [he, ← hf, State.askLink_down _ _ (show (eraseFreq s).linkOk = false from hl)]
    rfl
  · rw [he, ← hb, State.askLink_up _ _ (show (eraseFreq s).linkOk = true from hl)]
    rfl

theorem FreqBlind.transfer {body : State → State} (hb : FreqBlind body) (index d : BitVec 8) (len : Nat) :
    FreqBlind (transfer index d len body) := by
  intro s
  unfold Machine.transfer
  rw [checkXfer_eraseFreq]
  cases checkXfer index d len s with
  | some e => rfl
  | none => exact (linkFailure_freqBlind s.spiClaim 0#16).askLink hb s

/-- The branch of SPI_EXCHANGE is chosen by its operands (R144). -/
theorem exchangeBody_freqBlind (k : Nat) (data : List Byte) (n : BitVec 16) (duplex : Bool) (d : Nat) :
    FreqBlind (if duplex = true then duplexBody k data d
      else if 0 < n.toNat then halfDuplexBody k data n d else writeBody k data d) := by
  split_ifs
  · exact duplexBody_freqBlind k data d
  · exact halfDuplexBody_freqBlind k data n d
  · exact writeBody_freqBlind k data d

/-! ### The other operations -/

/-- The checks on the bank see no port (R168). -/
theorem FreqBlind.bankOperation {f : State → State} (hf : FreqBlind f) :
    FreqBlind fun s => match checkGpio s with
      | some e => s.raise e
      | none => f s := by
  intro s
  cases hc : checkGpio s with
  | some e =>
    have hc' : checkGpio (eraseFreq s) = some e := hc
    simp only [hc, hc']
    rfl
  | none =>
    have hc' : checkGpio (eraseFreq s) = none := hc
    simp only [hc, hc', hf s]

/-- Nor do the check on an operand (R160, R163) and what stands behind it. -/
theorem FreqBlind.guard {bad : State → Prop} [DecidablePred bad] (e : ErrorClass) {f : State → State}
    (hbad : ∀ s, bad (eraseFreq s) ↔ bad s) (hf : FreqBlind f) : FreqBlind fun s => if bad s then s.raise e else f s := by
  intro s
  by_cases h : bad s
  · simp only [h, (hbad s).2 h, if_true]
    rfl
  · simp only [h, mt (hbad s).1 h, if_false, hf s]

/-- The operation answers alike, and its effect is the same, whatever frequencies are stored. -/
def FreqBlindOperation (i : Instr) : Prop := ∀ s t, exec i s = .next t → exec i (eraseFreq s) = .next (eraseFreq t)

theorem FreqBlind.operation {f : State → State} (hf : FreqBlind f) {i : Instr} (he : ∀ s, exec i s = .next (f s)) :
    FreqBlindOperation i := by
  intro s t h
  obtain rfl := Host.Outcome.next.inj ((he s).symm.trans h)
  rw [he, hf]

theorem gpioSetDirection_freqBlind (m o : PinWord) : FreqBlindOperation (.gpioSetDirection m o) := by
  have hrun : FreqBlind (State.askLink (State.linkFailure m m) fun t => (t.setDirection m o).answerOk 0#16 []) :=
    (linkFailure_freqBlind m m).askLink fun _ => rfl
  exact (hrun.guard (bad := fun s => m &&& ~~~s.gpioClaim ≠ 0#16) .invalidArgument fun _ => Iff.rfl).bankOperation.operation
    fun _ => rfl

theorem gpioWrite_freqBlind (v : PinWord) : FreqBlindOperation (.gpioWrite v) := by
  have hwrite : FreqBlind fun t => (t.writeBank v).answerOk 0#16 [] := fun _ => rfl
  have hrun : FreqBlind fun s => s.askLink (State.linkFailure s.dir 0#16) fun t => (t.writeBank v).answerOk 0#16 [] :=
    fun s => (linkFailure_freqBlind s.dir 0#16).askLink hwrite s
  exact (hrun.guard (bad := fun s => v &&& ~~~s.dir ≠ 0#16) .gpioConflict fun _ => Iff.rfl).bankOperation.operation
    fun _ => rfl

theorem gpioRead_freqBlind : FreqBlindOperation .gpioRead := by
  have hread : FreqBlind fun t => (t.samplePins t.gpioClaim).2.answerOk (t.samplePins t.gpioClaim).1 [] := fun s => by
    simp only [gpioClaim_eraseFreq, samplePins_eraseFreq, answerOk_eraseFreq]
  exact ((linkFailure_freqBlind 0#16 0#16).askLink hread).bankOperation.operation fun _ => rfl

/-- Clearing the valid bits and forgetting the frequencies can change places (R80, R86). -/
theorem invalidatePorts_eraseFreq (s : State) :
    invalidatePorts (eraseFreq s).ports = (eraseFreq { s with ports := invalidatePorts s.ports }).ports := by
  simp [invalidatePorts, eraseFreq, Function.comp_def]

theorem openBlock_freqBlind (n : BitVec 8) : FreqBlind (State.openBlock n) := by
  intro s
  unfold State.openBlock
  rw [invalidatePorts_eraseFreq]
  rfl

theorem closeBlock_freqBlind : FreqBlind State.closeBlock := by
  intro s
  unfold State.closeBlock
  rw [invalidatePorts_eraseFreq]
  rfl

theorem configure_freqBlind (n : BitVec 8) : FreqBlindOperation (.configure n) := by
  intro s t h
  rcases exec_configure_inv h with ⟨hbad, rfl⟩ | ⟨ho, h1, hn, hd, rfl⟩ | ⟨ho, h1, hn, hd, rfl⟩
  · exact exec_configure_rejected (s := eraseFreq s) hbad
  · exact (exec_configure_asks (s := eraseFreq s) ho h1 hn).trans (congrArg _ (if_pos hd))
  · have hd' : ¬ (eraseFreq s).devicePresent = false := fun hf => by cases hd.symm.trans hf
    rw [exec_configure_asks (s := eraseFreq s) ho h1 hn, if_neg hd', ← answerOk_eraseFreq, ← openBlock_freqBlind]
    rfl

theorem getGpio_freqBlind : FreqBlindOperation .getGpio := by
  intro s t h
  rcases exec_getGpio_inv h with ⟨hbad, rfl⟩ | ⟨ho, hg, rfl⟩ | ⟨ho, hg, ha, rfl⟩
  · rw [← anyPort_eraseFreq] at hbad
    exact exec_getGpio_rejected (s := eraseFreq s) hbad
  · exact exec_getGpio_again (s := eraseFreq s) ho hg
  · rw [← anyPort_eraseFreq] at ha
    exact exec_getGpio_claims (s := eraseFreq s) ho hg ha

theorem terminate_freqBlind : FreqBlindOperation .terminate := by
  have hclose : FreqBlind fun s => s.closeBlock.answerOk 0#16 [] := fun s =>
    congrArg _ (closeBlock_freqBlind s)
  exact hclose.operation fun _ => rfl

/-- GET_PORT stores a frequency and reads none: what it leaves, less the frequencies, is the same. -/
theorem exec_getPort_eraseFreq {index : BitVec 8} {freq : BitVec 32} {mode : Mode} {order : BitOrder}
    (h : exec (.getPort index freq mode order) s = .next t) :
    ∃ u, exec (.getPort index freq mode order) (eraseFreq s) = .next u ∧ eraseFreq u = eraseFreq t := by
  rcases exec_getPort_inv h with ⟨hbad, rfl⟩ | ⟨ho, hk, h1, h2, rfl⟩
  · exact ⟨_, exec_getPort_rejected (s := eraseFreq s) mode order hbad, eraseFreq_eraseFreq (s.raise .configuration)⟩
  · refine ⟨_, exec_getPort_creates (s := eraseFreq s) mode order ho hk h1 h2, ?_⟩
    simp [eraseFreq, State.answerOk_eq, List.map_set, Function.comp_def]

/-- Settles O44: GET_PORT by `exec_getPort_eraseFreq`, every other operation by its `FreqBlindOperation`. -/
theorem frequencyIsNeverRead : Obligations.FrequencyIsNeverRead := by
  unfold Obligations.FrequencyIsNeverRead
  intro s t i h
  have of_blind (hb : FreqBlindOperation i) : ∃ u, exec i (eraseFreq s) = .next u ∧ eraseFreq u = eraseFreq t :=
    ⟨eraseFreq t, hb s t h, eraseFreq_eraseFreq t⟩
  cases i with
  | configure n => exact of_blind (configure_freqBlind n)
  | getPort index freq mode order => exact exec_getPort_eraseFreq h
  | getGpio => exact of_blind getGpio_freqBlind
  | terminate => exact of_blind terminate_freqBlind
  | spiWrite index data d =>
    exact of_blind (((writeBody_freqBlind _ _ _).transfer _ _ _).operation (exec_spiWrite index d data))
  | spiRead index n d => exact of_blind (((readBody_freqBlind _ _ _).transfer _ _ _).operation (exec_spiRead index d n))
  | spiExchange index data n duplex d =>
    exact of_blind (((exchangeBody_freqBlind index.toNat data n duplex (dropCount d)).transfer index d _).operation fun _ => rfl)
  | gpioSetDirection m o => exact of_blind (gpioSetDirection_freqBlind m o)
  | gpioWrite v => exact of_blind (gpioWrite_freqBlind v)
  | gpioRead => exact of_blind gpioRead_freqBlind

end Sys2Proof.Machine

/-! PROOFS. The bit-engine (41_bitengine.md): the mask of a last byte (O19, O20, O24), the wire order of bytes and the bytes of a
train (O21, O22, O23), and the dropped bits, sent as 0 (O25) and received as 0 (O39). -/

namespace Sys2Proof.Machine

/-! ### The mask of a last byte -/

/-- Masked by `keep d`, a byte loses its bits below `d` (R102). -/
theorem getLsbD_and_keep (b : Byte) (d i : Nat) : (b &&& keep d).getLsbD i = (b.getLsbD i && decide (d ≤ i)) := by
  by_cases hi : i < 8
  · rw [BitVec.getLsbD_and, getLsbD_keep d i hi]
  · simp only [BitVec.getLsbD_of_ge _ i (Nat.not_lt.1 hi), Bool.false_and]

theorem and_keep_zero (b : Byte) : b &&& keep 0 = b := BitVec.and_allOnes

/-- Two masks drop as many bits as the larger one (R114). -/
theorem keep_and_keep (a b : Nat) : keep a &&& keep b = keep (max a b) := by
  refine BitVec.eq_of_getLsbD_eq fun i hi => ?_
  rw [getLsbD_and_keep, getLsbD_keep a i hi, getLsbD_keep _ i hi, ← Bool.decide_and, decide_eq_decide, Nat.max_le]

/-- `trim` changes nothing but the last byte, read from the end of any list. -/
theorem trim_getLast? (data : List Byte) (d : Nat) : (trim data d).getLast? = data.getLast?.map (· &&& keep d) := by
  rcases data.eq_nil_or_concat with rfl | ⟨init, last, rfl⟩
  · rfl
  · simp [trim_concat]

theorem trim_zero (data : List Byte) : trim data 0 = data := by
  rcases data.eq_nil_or_concat with rfl | ⟨init, last, rfl⟩
  · rfl
  · rw [List.concat_eq_append, trim_concat, and_keep_zero]

theorem trim_trim (data : List Byte) (a b : Nat) : trim (trim data a) b = trim data (max a b) := by
  rcases data.eq_nil_or_concat with rfl | ⟨init, last, rfl⟩
  · rfl
  · simp only [List.concat_eq_append, trim_concat, BitVec.and_assoc, keep_and_keep]

/-- Settles O19: the table and the formula with the complement are finite, the bits are `getLsbD_keep`. -/
theorem keepIsTheMaskOfSignificantBits : Obligations.KeepIsTheMaskOfSignificantBits := by
  unfold Obligations.KeepIsTheMaskOfSignificantBits
  have hcomplement : ∀ d, d ≤ 7 → keep d = ~~~((1#8 <<< d) - 1#8) := by decide
  exact ⟨by decide, fun d hd => ⟨(and_keep_zero (keep d)).symm, hcomplement d hd, fun b hb => getLsbD_keep d b hb⟩⟩

/-- Settles O20: `trim_concat` is the last byte masked, `trim_zero` the mask that drops nothing. -/
theorem trimMasksTheLastByteOnly : Obligations.TrimMasksTheLastByteOnly := by
  unfold Obligations.TrimMasksTheLastByteOnly
  exact ⟨fun d _ => trim_nil d, trim_zero, fun data last d _ => trim_concat data last d⟩

/-- Settles O24: the laws hold for all `a` and `b`; above 7 the mask is 0. -/
theorem trimLaws : Obligations.TrimLaws := by
  unfold Obligations.TrimLaws
  exact ⟨fun a b _ _ => keep_and_keep a b, fun x a b _ _ => trim_trim x a b, trim_length⟩

/-! ### The train -/

/-- Which bit of a byte goes out at pulse `p` of it (R104). -/
def wireBit : BitOrder → Nat → Nat
  | .msbFirst, p => 7 - p
  | .lsbFirst, p => p

theorem ser_eq_map (order : BitOrder) (b : Byte) : ser order b = (List.range 8).map fun p => b.getLsbD (wireBit order p) := by
  cases order <;> rfl

theorem getElem?_ser (order : BitOrder) (b : Byte) {p : Nat} (hp : p < 8) :
    (ser order b)[p]? = some (b.getLsbD (wireBit order p)) := by
  simp [ser_eq_map, hp]

theorem bits_append (order : BitOrder) (x y : List Byte) : bits order (x ++ y) = bits order x ++ bits order y :=
  List.flatMap_append

/-- Pulse `j` of a train carries a bit of byte `j div 8` (R105), for `j` beyond the train as well. -/
theorem getElem?_bits (order : BitOrder) (data : List Byte) (j : Nat) :
    (bits order data)[j]? = (data[j / 8]?).map fun b => b.getLsbD (wireBit order (j % 8)) := by
  induction data generalizing j with
  | nil => rfl
  | cons b data ih =>
    rw [bits_cons]
    by_cases hj : j < 8
    · rw [List.getElem?_append_left (by simpa using hj), getElem?_ser order b hj, Nat.div_eq_of_lt hj, Nat.mod_eq_of_lt hj]
      rfl
    · obtain ⟨i, rfl⟩ := Nat.exists_eq_add_of_le' (Nat.not_lt.1 hj)
      rw [List.getElem?_append_right (by simp), ser_length, Nat.add_sub_cancel, ih, Nat.add_div_right i (by decide),
        Nat.add_mod_right, List.getElem?_cons_succ]

theorem bits_deser (order : BitOrder) (n : Nat) (s : List Bool) (h : s.length = 8 * n) : bits order (deser order s) = s := by
  induction n generalizing s with
  | zero =>
    obtain rfl := List.length_eq_zero_iff.1 h
    rfl
  | succ n ih =>
    obtain ⟨b, rest, rfl, hl⟩ := exists_ser_append order s (by omega)
    rw [deser_ser_append, bits_cons, ih rest (by omega)]

/-- Bit `p` of the wire order of byte `i` is bit `8 * i + p` of the train it is read from (R106). -/
theorem getElem?_deser (order : BitOrder) {n : Nat} {s : List Bool} (h : s.length = 8 * n) (i : Nat) {p : Nat} (hp : p < 8) :
    ((deser order s)[i]?).map (fun b => b.getLsbD (wireBit order p)) = s[8 * i + p]? := by
  have hbit := getElem?_bits order (deser order s) (8 * i + p)
  rw [bits_deser order n s h, Nat.mul_add_div (by decide), Nat.div_eq_of_lt hp, Nat.mul_add_mod, Nat.mod_eq_of_lt hp] at hbit
  exact hbit.symm

theorem deser_bits (order : BitOrder) (data : List Byte) : deser order (bits order data) = data := by
  induction data with
  | nil => rfl
  | cons b data ih => rw [bits_cons, deser_ser_append, ih]

/-- Settles O21: `wireBit` is `7 - p` MSB first and `p` LSB first. -/
theorem bitsGoOutInPortOrder : Obligations.BitsGoOutInPortOrder := by
  unfold Obligations.BitsGoOutInPortOrder
  exact ⟨fun _ => ⟨rfl, rfl⟩, fun data => ⟨fun order => ⟨List.flatMap_def, bits_length order data⟩,
    fun j _ => ⟨getElem?_bits .msbFirst data j, getElem?_bits .lsbFirst data j⟩⟩⟩

/-- Settles O22: the bytes are determined by their train (`bits_deser`), so their bits are read off it (`getElem?_deser`). -/
theorem deserialiseReadsTheTrain : Obligations.DeserialiseReadsTheTrain := by
  unfold Obligations.DeserialiseReadsTheTrain
  exact fun n s h => ⟨fun order => ⟨deser_length order n s h, bits_deser order n s h⟩,
    fun i _ _ ht => ⟨getElem?_deser .msbFirst h i ht, getElem?_deser .lsbFirst h i ht⟩⟩

/-- Settles O23: byte by byte, `deser_ser_append`. -/
theorem deserialiseInvertsSerialise : Obligations.DeserialiseInvertsSerialise := by
  unfold Obligations.DeserialiseInvertsSerialise
  exact deser_bits

/-! ### The dropped bits -/

/-- A masked byte sends 0 at the pulses of its bits below `d`, and its own bits at the others. -/
theorem getElem?_ser_and_keep (order : BitOrder) (b : Byte) (d : Nat) {p : Nat} (hp : p < 8) :
    (ser order (b &&& keep d))[p]? = if wireBit order p < d then some false else (ser order b)[p]? := by
  rw [getElem?_ser order _ hp, getElem?_ser order b hp, getLsbD_and_keep]
  by_cases h : wireBit order p < d
  · rw [if_pos h, decide_eq_false (Nat.not_le.2 h), Bool.and_false]
  · rw [if_neg h, decide_eq_true (Nat.not_lt.1 h), Bool.and_true]

/-- The transmit train differs from the untrimmed one at the pulses of the last byte's dropped bits, which are 0 (R111). -/
theorem getElem?_txbits_concat (order : BitOrder) (init : List Byte) (last : Byte) (d : Nat) {j : Nat}
    (hj : j < 8 * (init.length + 1)) :
    (txbits order (init ++ [last]) d)[j]?
      = if 8 * init.length ≤ j ∧ wireBit order (j - 8 * init.length) < d then some false
        else (bits order (init ++ [last]))[j]? := by
  simp only [txbits, trim_concat, bits_append]
  by_cases hinit : j < 8 * init.length
  · have hlen : j < (bits order init).length := by simpa using hinit
    rw [List.getElem?_append_left hlen, List.getElem?_append_left hlen, if_neg (by omega)]
  · have hlen : (bits order init).length ≤ j := by simpa using hinit
    rw [List.getElem?_append_right hlen, List.getElem?_append_right hlen, bits_length]
    simpa [hinit, Nat.not_lt.1 hinit] using getElem?_ser_and_keep order last d (show j - 8 * init.length < 8 by omega)

/-- Settles O25: `getElem?_txbits_concat` in each order, with the pulses of the dropped bits written as positions of the train. -/
theorem droppedBitsOnTheWire : Obligations.DroppedBitsOnTheWire := by
  unfold Obligations.DroppedBitsOnTheWire
  intro data d j hne hd hj
  obtain ⟨init, last, rfl⟩ := data.eq_nil_or_concat.resolve_left hne
  simp only [List.concat_eq_append, List.length_append, List.length_singleton] at hj ⊢
  rw [getElem?_txbits_concat .msbFirst init last d hj, getElem?_txbits_concat .lsbFirst init last d hj]
  simp only [wireBit]
  exact ⟨if_congr (by omega) rfl rfl, if_congr (by omega) rfl rfl⟩

/-- Whatever was sampled, the last byte received has 0 at its bits below `d` (R109). -/
theorem rxbytes_getLast?_getLsbD {order : BitOrder} {samples : List Bool} {d : Nat} {last : Byte}
    (h : (rxbytes order samples d).getLast? = some last) {b : Nat} (hb : b < d) : last.getLsbD b = false := by
  rw [rxbytes, trim_getLast?, Option.map_eq_some_iff] at h
  obtain ⟨sampled, -, rfl⟩ := h
  rw [getLsbD_and_keep, decide_eq_false (Nat.not_le.2 hb), Bool.and_false]

/-- The payload of a transfer's response is empty, or the bytes of some samples (R146). -/
theorem exec_transfer_payload {s t : State} {i : Instr} {index d : BitVec 8} {len : Nat} {r : Response}
    (hi : IsTransfer i index d len) (h : exec i s = .next t) (hr : t.rsp = some r) :
    r.payload = [] ∨ ∃ order samples, r.payload = rxbytes order samples (dropCount d) := by
  rcases exec_transfer_cases hi s with ⟨e, -, he⟩ | ⟨-, -, he⟩ | ⟨-, -, o, v, p, he, hp⟩
  all_goals
    obtain rfl := Host.Outcome.next.inj (he.symm.trans h)
    obtain rfl := Option.some.inj hr
  · exact .inl rfl
  · exact .inl rfl
  · exact hp

/-- Settles O39: a last byte received comes from `rxbytes`, whatever the samples are. -/
theorem droppedBitsAreReceivedAsZero : Obligations.DroppedBitsAreReceivedAsZero := by
  unfold Obligations.DroppedBitsAreReceivedAsZero
  intro s t i index d len r last hi h hr hlast b hb
  rcases exec_transfer_payload hi h hr with hp | ⟨order, samples, hp⟩ <;> rw [hp] at hlast
  · cases hlast
  · exact rxbytes_getLast?_getLsbD hlast hb

end Sys2Proof.Machine

/-! PROOFS. Clock modes and the sequencer (42_cs_sequencer.md): the micro-steps of `XFER` (O26), what they show of MISO and data out
(O28, O29), what `XFER` reads (O31), and the selects at every micro-step of every operation (O30). -/

namespace Sys2Proof.Machine

variable {s t : State}

/-! ### The events of `XFER` -/

theorem newEvents_of_history {evs : List PinEvent} (h : t.history = s.history ++ evs) : newEvents s t = evs := by
  rw [newEvents, h, List.drop_left]

section
variable {k : Nat} (o : List Bool) (hp : BusPins s.par k)
include hp

theorem offBusEvent_of_mem_newEvents_xfer {e : PinEvent} (he : e ∈ newEvents s (xfer k o s).2) : OffBusEvent k s e := by
  obtain ⟨evs, hh, hoff, -, -⟩ := xfer_emits k o s hp
  exact hoff e (newEvents_of_history hh ▸ he)

theorem samplesOf_newEvents_xfer : samplesOf (newEvents s (xfer k o s).2) = (xfer k o s).1 := by
  obtain ⟨evs, hh, -, hs, -⟩ := xfer_emits k o s hp
  rw [newEvents_of_history hh, hs]

/-- The micro-steps are those of R124. -/
theorem view_newEvents_xfer : (newEvents s (xfer k o s).2).map (PinEvent.view s.par k)
    = (xferTrace s.par k (s.portAt k).mode (s.drv.getLsbD (s.par.csPin k)) s.activeCs o).map some := by
  obtain ⟨evs, hh, -, -, hv⟩ := xfer_emits k o s hp
  rw [newEvents_of_history hh, hv]

theorem xfer_history_take : (xfer k o s).2.history.take s.history.length = s.history := by
  obtain ⟨evs, hh, -, -, -⟩ := xfer_emits k o s hp
  rw [hh, List.take_left]

end

/-- What `XFER` leaves (R126): the latches are those of `xfer_drv`, and MISO, never driven, is asked once per pulse. -/
theorem xfer_transferDone {k : Nat} (o : List Bool) (h : Inv s) (hk : k < s.par.csMax) :
    TransferDone k o.length s (xfer k o s).2 := by
  have hp := Params.busPins h.parValid hk
  have hd := fun p => xfer_drv k o s p hp
  exact {
    registers := by constructor <;> simp
    inputs := by constructor <;> simp
    faulted := xfer_faulted k o s
    oe := xfer_oe k o s
    otherPins := fun p h1 h2 h3 => by rw [hd, if_neg h1, if_neg h2, if_neg h3]
    sck := by rw [hd, if_pos rfl]
    mosi := by rw [hd, if_neg hp.sckMosi.symm, if_pos rfl]
    select := by rw [hd, if_neg hp.sckCs.symm, if_neg hp.mosiCs.symm, if_pos rfl]
    activeCs := xfer_activeCs k o s
    seq := xfer_seq k o s
    asked := xfer_env k o s hp.misoLt h.misoUndriven }

theorem xfer_runsXfer {k : Nat} (o : List Bool) (h : Inv s) (hk : k < s.par.csMax) : RunsXfer k o s (xfer k o s).2 :=
  have hp := Params.busPins h.parValid hk
  ⟨view_newEvents_xfer o hp, xfer_history_take o hp, xfer_transferDone o h hk⟩

/-- Settles O26: `xfer_runsXfer`, and MISO is never driven, so each sample is the environment's answer. -/
theorem xferRunsTheMicroSteps : Obligations.XferRunsTheMicroSteps := by
  unfold Obligations.XferRunsTheMicroSteps
  intro s k o h hk
  have hp := Params.busPins h.parValid hk
  exact ⟨xfer_runsXfer o h hk, xfer_samples k o s hp.misoLt h.misoUndriven, xfer_link k o s⟩

/-! ### The edge of each sample -/

/-- The level of the clock at a sample (R120): high after a rising edge in modes 0 and 3, low after a falling one in 1 and 2. -/
def sampleLevel (m : Mode) : Bool := decide (m = .mode0 ∨ m = .mode3)

/-- If the second of two neighbouring micro-steps takes a sample, it is the edge of the clock that the mode names. -/
def SampleEdge (m : Mode) (a b : BusView) : Prop := b.sampled = true → b.sck = sampleLevel m ∧ a.sck = !sampleLevel m

/-- Pieces of a trace join when the second begins with a micro-step that takes no sample. -/
theorem isChain_sampleEdge_append {m : Mode} {xs ys : List BusView} (hx : xs.IsChain (SampleEdge m))
    (hy : ys.IsChain (SampleEdge m)) (h : ∀ y ∈ ys.head?, y.sampled = false) : (xs ++ ys).IsChain (SampleEdge m) :=
  List.isChain_append.2 ⟨hx, hy, fun _ _ y hmem hs => by simp [h y hmem] at hs⟩

section
variable (c : Params) (k n : Nat) (m : Mode) (j : Nat)

theorem isChain_pulseTrace (b : Bool) : (pulseTrace c k n m j b).IsChain (SampleEdge m) := by
  cases m <;> simp [pulseTrace, SampleEdge, sampleLevel, cpha, cpol]

theorem pulsesTrace_head?_not_sampled (o : List Bool) : ∀ y ∈ (pulsesTrace c k n m j o).head?, y.sampled = false := by
  cases o with
  | nil => simp [pulsesTrace]
  | cons b rest => cases m <;> simp [pulsesTrace, pulseTrace, cpha]

theorem isChain_pulsesTrace (o : List Bool) : (pulsesTrace c k n m j o).IsChain (SampleEdge m) := by
  induction o generalizing j with
  | nil => exact .nil
  | cons b rest ih =>
    exact isChain_sampleEdge_append (isChain_pulseTrace c k n m j b) (ih (j + 1))
      (pulsesTrace_head?_not_sampled c k n m (j + 1) rest)

end

/-- T1, T2, T4 and T5 take no sample. -/
theorem isChain_xferTrace (c : Params) (k : Nat) (m : Mode) (select0 : Bool) (active0 : Option Nat) (o : List Bool) :
    (xferTrace c k m select0 active0 o).IsChain (SampleEdge m) := by
  refine isChain_sampleEdge_append (isChain_sampleEdge_append ?_ (isChain_pulsesTrace c k o.length m 0 o)
    (pulsesTrace_head?_not_sampled c k o.length m 0 o)) ?_ ?_ <;> simp [SampleEdge]

/-- Settles O28: two neighbours of the events are two neighbours of the trace of R124. -/
theorem samplesFallOnTheModesEdge : Obligations.SamplesFallOnTheModesEdge := by
  unfold Obligations.SamplesFallOnTheModesEdge
  intro s k o before after a b h hk heq hs
  have hv := view_newEvents_xfer o (Params.busPins h.parValid hk)
  rw [heq, List.map_append, List.map_cons, List.map_cons, eq_comm, List.map_eq_append_iff] at hv
  obtain ⟨_, _, htrace, -, hv⟩ := hv
  obtain ⟨va, _, rfl, ha, hv⟩ := List.map_eq_cons_iff.1 hv
  obtain ⟨vb, _, rfl, hb, -⟩ := List.map_eq_cons_iff.1 hv
  obtain rfl := Option.some.inj ha
  obtain rfl := Option.some.inj hb
  exact List.isChain_iff_forall_rel_of_append_cons_cons.1 (isChain_xferTrace ..) htrace hs

/-! ### Data out at each sample -/

/-- Data out, if the micro-step takes a sample. -/
def BusView.mosiSample (v : BusView) : Option Bool := if v.sampled = true then some v.mosi else none

/-- Which bits data out has at the samples can be seen on the bus of any port. -/
theorem mosiAtSamples_eq_view (c : Params) (k : Nat) (events : List PinEvent) :
    mosiAtSamples c events = (events.map (PinEvent.view c k)).filterMap (Option.bind · BusView.mosiSample) := by
  rw [List.filterMap_map]
  refine congrArg (List.filterMap · events) (funext fun e => ?_)
  cases e <;> rfl

theorem pulsesTrace_mosiSamples (c : Params) (k n : Nat) (m : Mode) (j : Nat) (o : List Bool) :
    (pulsesTrace c k n m j o).filterMap BusView.mosiSample = o := by
  induction o generalizing j with
  | nil => rfl
  | cons b rest ih =>
    rw [pulsesTrace, List.filterMap_append, ih]
    cases m <;> rfl

theorem xferTrace_mosiSamples (c : Params) (k : Nat) (m : Mode) (select0 : Bool) (active0 : Option Nat) (o : List Bool) :
    (xferTrace c k m select0 active0 o).filterMap BusView.mosiSample = o := by
  simp [xferTrace, pulsesTrace_mosiSamples, BusView.mosiSample]

/-- Settles O29: each pulse of the trace of R124 has its bit on data out at its one sample. -/
theorem mosiIsStableAtEachSample : Obligations.MosiIsStableAtEachSample := by
  unfold Obligations.MosiIsStableAtEachSample
  intro s k o h hk
  have hp := Params.busPins h.parValid hk
  refine ⟨?_, samplesOf_newEvents_xfer o hp⟩
  rw [mosiAtSamples_eq_view s.par k, view_newEvents_xfer o hp, List.filterMap_map]
  exact xferTrace_mosiSamples ..

/-! ### What `XFER` reads -/

section
variable (ports : List Port) (s : State)

/-- The state with another port table. -/
def State.withPorts : State := { s with ports := ports }

@[simp] theorem State.withPorts_par : (s.withPorts ports).par = s.par := rfl
@[simp] theorem State.withPorts_seq : (s.withPorts ports).seq = s.seq := rfl
@[simp] theorem pinDrive_withPorts (p : Nat) (v : Bool) :
    (s.withPorts ports).pinDrive p v = (s.pinDrive p v).withPorts ports := rfl
@[simp] theorem record_withPorts (b : Option Bool) : (s.withPorts ports).record b = (s.record b).withPorts ports := rfl
@[simp] theorem pulseDone_withPorts : (s.withPorts ports).pulseDone = s.pulseDone.withPorts ports := rfl

@[simp] theorem envAsked_withPorts : (s.withPorts ports).envAsked = s.envAsked.withPorts ports := by
  cases h : s.envIn <;> simp [State.envAsked, State.withPorts, h]

@[simp] theorem samplePins_withPorts (m : PinWord) :
    (s.withPorts ports).samplePins m = ((s.samplePins m).1, (s.samplePins m).2.withPorts ports) := by
  unfold State.samplePins
  rw [envAsked_withPorts, show (s.withPorts ports).oe = s.oe from rfl]
  split_ifs <;> rfl

@[simp] theorem sampleMiso_withPorts : (s.withPorts ports).sampleMiso = (s.sampleMiso.1, s.sampleMiso.2.withPorts ports) := by
  simp only [State.sampleMiso, State.pinSample, State.withPorts_par, samplePins_withPorts, record_withPorts]

theorem pulse_withPorts (m : Mode) (b : Bool) :
    pulse m b (s.withPorts ports) = ((pulse m b s).1, (pulse m b s).2.withPorts ports) := by
  cases h : cpha m <;> simp [pulse, h]

theorem shiftBits_withPorts (m : Mode) (o : List Bool) :
    shiftBits m o (s.withPorts ports) = ((shiftBits m o s).1, (shiftBits m o s).2.withPorts ports) := by
  induction o generalizing s with
  | nil => rfl
  | cons b rest ih => simp only [shiftBits, pulse_withPorts, ih]

theorem setupStep_withPorts (k n : Nat) (m : Mode) :
    setupStep k n m (s.withPorts ports) = (setupStep k n m s).withPorts ports := rfl

theorem selectStep_withPorts (k n : Nat) : selectStep k n (s.withPorts ports) = (selectStep k n s).withPorts ports := by
  unfold selectStep
  split <;> rfl

theorem deselectStep_withPorts (k : Nat) : deselectStep k (s.withPorts ports) = (deselectStep k s).withPorts ports := rfl

theorem parkStep_withPorts (before : Seq) : parkStep before (s.withPorts ports) = (parkStep before s).withPorts ports := rfl

/-- The mode is all that `XFER` reads of the port table (R123). -/
theorem xfer_withPorts {k : Nat} (o : List Bool) (hm : ((s.withPorts ports).portAt k).mode = (s.portAt k).mode) :
    (xfer k o (s.withPorts ports)).1 = (xfer k o s).1 ∧
      (xfer k o (s.withPorts ports)).2 = (xfer k o s).2.withPorts ports := by
  simp only [xfer, hm, setupStep_withPorts, selectStep_withPorts, shiftBits_withPorts, deselectStep_withPorts, parkStep_withPorts,
    State.withPorts_seq, and_self]

end

/-- T1 writes the whole of `SEQ` before anything reads it (R125), and T5 puts back what the call found, idle. -/
theorem xfer_withSeq (k : Nat) (o : List Bool) (q : Seq) (s : State) :
    (xfer k o { s with seq := q }).1 = (xfer k o s).1 ∧
      (xfer k o { s with seq := q }).2 = { (xfer k o s).2 with seq := { q with st := .idle } } := by
  have hsetup : ∀ n m, setupStep k n m { s with seq := q } = setupStep k n m s := fun _ _ => rfl
  have hmode : State.portAt { s with seq := q } k = s.portAt k := rfl
  have hpark : ∀ t : State, parkStep q t = { parkStep s.seq t with seq := { q with st := .idle } } := fun _ => rfl
  simp only [xfer, hsetup, hmode, hpark, and_self]

/-- Settles O31: `xfer_withPorts` for a table with one descriptor replaced, and `xfer_withSeq`. -/
theorem xferReadsTheModeAlone : Obligations.XferReadsTheModeAlone := by
  unfold Obligations.XferReadsTheModeAlone
  intro s k o
  refine ⟨fun q hlen hq => ?_, fun q => xfer_withSeq k o q s⟩
  have hm : ((s.withPorts (s.ports.set k q)).portAt k).mode = (s.portAt k).mode :=
    (congrArg Port.mode (portAt_setPort_same q s hlen)).trans hq
  exact xfer_withPorts _ s o hm

/-! ### The selects

A state at rest has no select asserted, and an operation either leaves it so, at each of its events, or runs one `XFER`. -/

/-- No select is asserted and `ACTIVE_CS` is none (R24). -/
def SelectsAtRest (s : State) : Prop :=
  s.activeCs = none ∧ ∀ k, k < s.csCount.toNat → s.drv.getLsbD (s.par.csPin k) = !s.par.csActive

/-- On a closed block there is no select below `CS_COUNT`. -/
theorem PinInv.selectsAtRest (hi : Inv s) (h : PinInv s) : SelectsAtRest s := by
  refine ⟨h.noSelect, fun k hk => ?_⟩
  cases ho : s.isOpen with
  | false => simp [hi.countClosed ho] at hk
  | true => exact h.selectsHigh ho k hk

theorem Good.selectsAtRest (h : Good s) (hf : s.faulted = false) : SelectsAtRest s := by
  obtain ⟨hi, hp⟩ := h
  exact (hp hf).selectsAtRest hi

/-- Neither `Inv` nor `PinInv` looks at the mark of a TransportError. -/
theorem good_of_pinInv (hi : Inv s) (h : PinInv s) : Good { s with faulted := false } :=
  have hr : SameRegisters s { s with faulted := false } := ⟨rfl, rfl, rfl, rfl, rfl, rfl, rfl, rfl⟩
  ⟨hi.congr hr rfl fun p hp => (hi.noPin p hp).1, fun _ => h.congr hr rfl rfl rfl rfl⟩

/-- At every new micro-step, select `k` is asserted exactly while `ACTIVE_CS` is `k` (R23, R127). -/
def SelectsFollow (s t : State) : Prop :=
  ∀ m, .micro m ∈ newEvents s t → ∀ k, k < t.csCount.toNat →
    (m.drv.getLsbD (s.par.csPin k) = s.par.csActive ↔ m.activeCs = some k)

theorem selectsFollow_of_noEvent (h : t.history = s.history) : SelectsFollow s t := by
  intro m hm
  rw [newEvents_of_history (evs := []) (by simpa using h)] at hm
  cases hm

theorem selectsFollow_of_lost (h : t.history = s.history ++ [.lost]) : SelectsFollow s t := by
  intro m hm
  rw [newEvents_of_history h] at hm
  simp at hm

/-- One micro-step, and the state after it at rest. -/
theorem selectsFollow_of_rest {q : Seq} {sample : Option Bool} (hr : SelectsAtRest t) (hpar : t.par = s.par)
    (h : t.history = s.history ++ [.micro ⟨t.drv, t.oe, t.activeCs, q, sample⟩]) : SelectsFollow s t := by
  obtain ⟨ha, hd⟩ := hr
  intro m hm k hk
  rw [newEvents_of_history h, List.mem_singleton, PinEvent.micro.injEq] at hm
  subst hm
  have := hd k hk
  rw [hpar] at this
  simp [this, ha]

/-- The select of the port is asserted exactly while `ACTIVE_CS` is the port. -/
def BusView.SelectFollows (c : Params) (k : Nat) (v : BusView) : Prop := v.select = c.csActive ↔ v.activeCs = some k

theorem pulsesTrace_selectFollows (c : Params) (k n : Nat) (m : Mode) (j : Nat) (o : List Bool) :
    ∀ v ∈ pulsesTrace c k n m j o, v.SelectFollows c k := by
  induction o generalizing j with
  | nil => simp [pulsesTrace]
  | cons b rest ih =>
    refine List.forall_mem_append.2 ⟨?_, ih (j + 1)⟩
    cases m <;> simp [pulseTrace, cpha, BusView.SelectFollows]

/-- From rest, T1 included (R124). -/
theorem xferTrace_selectFollows (c : Params) (k : Nat) (m : Mode) (o : List Bool) :
    ∀ v ∈ xferTrace c k m (!c.csActive) none o, v.SelectFollows c k := by
  refine List.forall_mem_append.2 ⟨List.forall_mem_append.2 ⟨?_, pulsesTrace_selectFollows c k o.length m 0 o⟩, ?_⟩ <;>
    simp [BusView.SelectFollows]

/-- At a micro-step of `XFER` from rest, the select of its port is that of the trace, and every other is left deasserted. -/
theorem selectsFollow_xfer {k : Nat} (o : List Bool) (hp : s.par.valid = true) (hr : SelectsAtRest s)
    (hn : s.csCount.toNat ≤ s.par.csMax) (hk : k < s.csCount.toNat) : SelectsFollow s (xfer k o s).2 := by
  obtain ⟨ha, hd⟩ := hr
  have hpk := Params.busPins hp (hk.trans_le hn)
  intro m hm j hj
  rw [xfer_csCount] at hj
  by_cases hjk : j = k
  · subst hjk
    have hmem := List.mem_map_of_mem (f := PinEvent.view s.par j) hm
    rw [view_newEvents_xfer o hpk, hd j hj, ha] at hmem
    obtain ⟨v, hv, hview⟩ := List.mem_map.1 hmem
    have hfollows := xferTrace_selectFollows _ _ _ _ v hv
    obtain rfl := Option.some.inj hview
    exact hfollows
  · obtain ⟨_, hx, -, hactive, hdrv⟩ := offBusEvent_of_mem_newEvents_xfer o hpk hm
    obtain rfl := PinEvent.micro.inj hx
    have hpj := Params.busPins hp (hj.trans_le hn)
    rw [hdrv _ hpj.sckCs.symm hpj.mosiCs.symm (by simp only [Params.csPin]; omega), hd j hj]
    have hne : m.activeCs ≠ some j := by
      rcases hactive with h | h | h <;> simp [h, ha, Ne.symm hjk]
    simp [hne]

theorem selectsFollow_exec_transfer {i : Instr} {index d : BitVec 8} {len : Nat} (hi : IsTransfer i index d len) (h : Inv s)
    (hp : PinInv s) (he : exec i s = .next t) : SelectsFollow s t := by
  rcases exec_transfer_inv hi he with ⟨e, -, rfl⟩ | ⟨-, -, rfl⟩ | ⟨hc, -, o, v, p, rfl⟩
  · exact selectsFollow_of_noEvent rfl
  · exact selectsFollow_of_lost rfl
  · obtain ⟨-, ho, hk, -⟩ := (checkXfer_none_iff ..).1 hc
    obtain ⟨-, hn⟩ := h.countOpen ho
    have hr : SelectsAtRest s := hp.selectsAtRest h
    exact selectsFollow_xfer (s := s.linkAsked) o h.parValid hr hn hk

theorem selectsFollow_exec_configure {n : BitVec 8} (h : Inv s) (hp : PinInv s) (he : exec (.configure n) s = .next t) :
    SelectsFollow s t := by
  rcases exec_configure_inv he with ⟨-, rfl⟩ | ⟨-, -, -, -, rfl⟩ | ⟨-, h1, hn, -, rfl⟩
  · exact selectsFollow_of_noEvent rfl
  · exact selectsFollow_of_noEvent rfl
  · exact selectsFollow_of_rest ((good_openBlock (good_of_pinInv h hp) h1 hn).selectsAtRest rfl) rfl rfl

theorem selectsFollow_exec_gpioSetDirection {m o : PinWord} (h : Inv s) (hp : PinInv s)
    (he : exec (.gpioSetDirection m o) s = .next t) : SelectsFollow s t := by
  rcases exec_gpioSetDirection_inv he with ⟨e, rfl, -⟩ | ⟨-, -, -, rfl⟩ | ⟨hc, hm, -, rfl⟩
  · exact selectsFollow_of_noEvent rfl
  · exact selectsFollow_of_lost rfl
  · obtain ⟨ho, -⟩ := (checkGpio_none_iff s).1 hc
    have hclaim := (subset_iff _ _).1 (not_not.1 hm)
    exact selectsFollow_of_rest ((good_setDirection o (good_of_pinInv h hp) ho hclaim).selectsAtRest rfl) rfl rfl

theorem selectsFollow_exec_gpioWrite {v : PinWord} (h : Inv s) (hp : PinInv s) (he : exec (.gpioWrite v) s = .next t) :
    SelectsFollow s t := by
  rcases exec_gpioWrite_inv he with ⟨e, rfl, -⟩ | ⟨-, -, -, rfl⟩ | ⟨hc, -, -, rfl⟩
  · exact selectsFollow_of_noEvent rfl
  · exact selectsFollow_of_lost rfl
  · obtain ⟨ho, -⟩ := (checkGpio_none_iff s).1 hc
    exact selectsFollow_of_rest ((good_writeBank v (good_of_pinInv h hp) ho).selectsAtRest rfl) rfl rfl

/-- Settles O30: operation by operation. CONFIGURE, TERMINATE and the bank's two writes leave the selects at rest, and the reads
have no micro-step. -/
theorem atMostOneSelectAsserted : Obligations.AtMostOneSelectAsserted := by
  unfold Obligations.AtMostOneSelectAsserted
  intro s t i h hp he
  show SelectsFollow s t
  rcases isTransfer_or i with ⟨index, d, len, hi⟩ | ⟨n, rfl⟩ | ⟨index, freq, mode, order, rfl⟩ | rfl | rfl | ⟨m, o, rfl⟩ | ⟨v, rfl⟩ | rfl
  · exact selectsFollow_exec_transfer hi h hp he
  · exact selectsFollow_exec_configure h hp he
  · rcases exec_getPort_inv he with ⟨-, rfl⟩ | ⟨-, -, -, -, rfl⟩ <;> exact selectsFollow_of_noEvent rfl
  · rcases exec_getGpio_inv he with ⟨-, rfl⟩ | ⟨-, -, rfl⟩ | ⟨-, -, -, rfl⟩ <;> exact selectsFollow_of_noEvent rfl
  · obtain rfl := exec_terminate_inv he
    exact selectsFollow_of_rest ((good_closeBlock h).selectsAtRest rfl) rfl rfl
  · exact selectsFollow_exec_gpioSetDirection h hp he
  · exact selectsFollow_exec_gpioWrite h hp he
  · rcases exec_gpioRead_inv he with ⟨e, -, rfl⟩ | ⟨-, -, rfl⟩ | ⟨-, -, rfl⟩
    · exact selectsFollow_of_noEvent rfl
    · exact selectsFollow_of_lost rfl
    · exact selectsFollow_of_noEvent (by simp)

end Sys2Proof.Machine

/-! PROOFS. The transfers (43_spi_transfers.md): the checks (O32), what each operation sends and answers (O33, O34, O35, O36), the
loopbacks (O40, O41, O42), and what a transfer leaves alone (O43). -/

namespace Sys2Proof.Machine

variable {s t : State}

/-! ### The checks -/

section
variable {i : Instr} {index d : BitVec 8} {len : Nat} (hi : IsTransfer i index d len)
include hi

/-- A transfer with illegal fields, whatever the state is (R146 checks 1 and 2). -/
theorem exec_transfer_of_illegalFields (hf : ¬ LegalFields d len) (s : State) : exec i s = .next (s.raise .invalidArgument) := by
  rcases exec_transfer_cases hi s with ⟨e, hc, he⟩ | ⟨hc, -⟩ | ⟨hc, -⟩
  · rcases checkXfer_some hc with ⟨rfl, -⟩ | ⟨-, hl, -⟩
    · exact he
    · exact absurd hl hf
  all_goals exact absurd ((checkXfer_none_iff ..).1 hc).1 hf

/-- A transfer with legal fields on a port that is not there (R146 checks 3 to 5). -/
theorem exec_transfer_of_noPort (hf : LegalFields d len)
    (h : s.isOpen = false ∨ s.csCount.toNat ≤ index.toNat ∨ (s.portAt index.toNat).valid = false) :
    exec i s = .next (s.raise .configuration) := by
  have hsome : checkXfer index d len s ≠ none := fun hc => by
    obtain ⟨-, ho, hk, hv⟩ := (checkXfer_none_iff ..).1 hc
    simp [ho, hv, Nat.not_le.2 hk] at h
  rcases exec_transfer_cases hi s with ⟨e, hc, he⟩ | ⟨hc, -⟩ | ⟨hc, -⟩
  · rcases checkXfer_some hc with ⟨-, hl⟩ | ⟨rfl, -⟩
    · exact absurd hf hl
    · exact he
  all_goals exact absurd hc hsome

/-- A transfer that passes checks 1 to 5 and finds the link down (R146 check 6, R184). -/
theorem exec_transfer_of_linkDown (hc : checkXfer index d len s = none) (hl : s.linkOk = false) :
    exec i s = .next (s.linkAsked.linkFailure s.spiClaim 0#16) := by
  rcases exec_transfer_cases hi s with ⟨e, he, -⟩ | ⟨-, -, he⟩ | ⟨-, hup, -⟩
  · cases hc.symm.trans he
  · exact he
  · cases hl.symm.trans hup

theorem transferErrors_of_isTransfer (s : State) : TransferErrors i index d len s := by
  unfold TransferErrors
  simp only [← State.raise_invalidArgument, ← State.raise_configuration, ← errorResponse_transport]
  refine ⟨fun h => ?_, fun _ _ h0 h => ?_, fun hf ho => ?_, fun hf _ hk => ?_, fun hf _ _ hv => ?_, fun hf ho hk hv hl => ?_⟩
  · exact exec_transfer_of_illegalFields hi (fun ⟨h1, h2, _⟩ => by omega) s
  · exact exec_transfer_of_illegalFields hi (fun ⟨_, _, h3⟩ => by have := h3 h0; omega) s
  · exact exec_transfer_of_noPort hi hf (.inl ho)
  · exact exec_transfer_of_noPort hi hf (.inr (.inl hk))
  · exact exec_transfer_of_noPort hi hf (.inr (.inr hv))
  · have hc := (checkXfer_none_iff ..).2 ⟨hf, ho, hk, hv⟩
    exact ⟨_, exec_transfer_of_linkDown hi hc hl, rfl, sameRegisters_linkFailure _ _ s⟩

end

/-- Settles O32: the checks answer by the error that `checkXfer_some` gives, and the link last. -/
theorem transferChecksInOrder : Obligations.TransferChecksInOrder := by
  unfold Obligations.TransferChecksInOrder
  exact fun s _ _ _ _ hi => transferErrors_of_isTransfer hi s

/-! ### A transfer that runs -/

/-- With legal fields and a ready port the body runs, the link asked once (R146). -/
theorem PortReady.transfer_eq {index d : BitVec 8} {len : Nat} (hr : PortReady index s) (hf : LegalFields d len)
    (body : State → State) : transfer index d len body s = body s.linkAsked := by
  obtain ⟨ho, hk, hv, hl⟩ := hr
  have hc := (checkXfer_none_iff ..).2 ⟨hf, ho, hk, hv⟩
  rw [transfer, hc]
  exact State.askLink_up _ _ hl

theorem Inv.index_lt_csMax (h : Inv s) (ho : s.isOpen = true) {k : Nat} (hk : k < s.csCount.toNat) : k < s.par.csMax :=
  hk.trans_le (h.countOpen ho).2

theorem PortReady.index_lt_csMax {index : BitVec 8} (hr : PortReady index s) (h : Inv s) : index.toNat < s.par.csMax := by
  obtain ⟨ho, hk, -, -⟩ := hr
  exact h.index_lt_csMax ho hk

theorem answerOk_rsp (v : BitVec 16) (p : List Byte) (s : State) : (s.answerOk v p).rsp = some ⟨v.setWidth 32, p⟩ := by
  rw [State.answerOk_eq]

/-- The state after a transfer on port `k` that has sent the train `o`, the link asked, and answers OK. -/
def State.transferred (k : Nat) (o : List Bool) (v : BitVec 16) (p : List Byte) (s : State) : State :=
  (xfer k o s.linkAsked).2.answerOk v p

section
variable (k : Nat) (o : List Bool) (v : BitVec 16) (p : List Byte) (s : State)

theorem transferred_rsp : (s.transferred k o v p).rsp = some ⟨v.setWidth 32, p⟩ := answerOk_rsp ..

theorem transferred_link : (s.transferred k o v p).link = s.link.asked := xfer_link k o s.linkAsked

theorem sameRegisters_transferred : SameRegisters s (s.transferred k o v p) := (sameRegisters_linkAsked_xfer k o s).answer _

end

/-! What each operation is once its checks have passed: a train, and what it makes of the samples. -/

section
variable (k : Nat) (data : List Byte) (n : BitVec 16) (d : Nat) (s : State)

theorem writeBody_linkAsked :
    writeBody k data d s.linkAsked = s.transferred k (txbits (s.portAt k).order data d) 0#16 [] := rfl

theorem readBody_linkAsked : readBody k n d s.linkAsked
    = s.transferred k (zeros n.toNat) n (rxbytes (s.portAt k).order (xfer k (zeros n.toNat) s.linkAsked).1 d) := rfl

theorem halfDuplexBody_linkAsked : halfDuplexBody k data n d s.linkAsked
    = s.transferred k (bits (s.portAt k).order data ++ zeros n.toNat) n
        (rxbytes (s.portAt k).order
          ((xfer k (bits (s.portAt k).order data ++ zeros n.toNat) s.linkAsked).1.drop (8 * data.length)) d) := rfl

theorem duplexBody_linkAsked : duplexBody k data d s.linkAsked
    = s.transferred k (txbits (s.portAt k).order data d) (BitVec.ofNat 16 data.length)
        (rxbytes (s.portAt k).order (xfer k (txbits (s.portAt k).order data d) s.linkAsked).1 d) := rfl

end

section
variable {k : Nat} (o : List Bool) (h : Inv s) (hk : k < s.par.csMax)
include h hk

/-- Of what `XFER` leaves (`xfer_transferDone`), the question to the link and the answer change nothing. -/
theorem transferred_transferDone (v : BitVec 16) (p : List Byte) : TransferDone k o.length s (s.transferred k o v p) := by
  obtain ⟨-, ⟨hc, hd, hrst⟩, hf, ho, hother, hsck, hmosi, hcs, ha, hq, henv⟩ := xfer_transferDone o h.linkAsked hk
  exact ⟨sameRegisters_transferred k o v p s, ⟨hc, hd, hrst⟩, hf, ho, hother, hsck, hmosi, hcs, ha, hq, henv⟩

theorem transferred_runsXfer (v : BitVec 16) (p : List Byte) : RunsXfer k o s (s.transferred k o v p) := by
  obtain ⟨hview, htake, -⟩ := xfer_runsXfer o h.linkAsked hk
  exact ⟨hview, htake, transferred_transferDone o h hk v p⟩

/-- MISO is never driven, so the samples are the environment's answers (R46). -/
theorem xfer_linkAsked_samples : (xfer k o s.linkAsked).1 = misoAnswers o.length s := by
  obtain ⟨-, hs, -⟩ := xferRunsTheMicroSteps s.linkAsked k o h.linkAsked hk
  exact hs

end

/-- Settles O33: `writeBody` is the transfer of the trimmed data that answers no value. -/
theorem spiWriteSendsTheTrimmedData : Obligations.SpiWriteSendsTheTrimmedData := by
  unfold Obligations.SpiWriteSendsTheTrimmedData
  intro s index d data h
  refine ⟨transferErrors_of_isTransfer (.inl ⟨data, rfl, rfl⟩) s, fun hf hr => ?_⟩
  have hk := hr.index_lt_csMax h
  rw [exec_spiWrite, hr.transfer_eq hf, writeBody_linkAsked]
  exact ⟨_, rfl, transferred_rsp .., transferred_link .., transferred_runsXfer _ h hk ..⟩

/-- Settles O34: `readBody` is the transfer of zeros that answers the bytes of its samples. -/
theorem spiReadReturnsTheSamples : Obligations.SpiReadReturnsTheSamples := by
  unfold Obligations.SpiReadReturnsTheSamples
  intro s index d length h
  refine ⟨transferErrors_of_isTransfer (.inr (.inl ⟨length, rfl, rfl⟩)) s, fun hf hr => ?_⟩
  have hk := hr.index_lt_csMax h
  rw [exec_spiRead, hr.transfer_eq hf, readBody_linkAsked]
  refine ⟨_, _, rfl, transferred_rsp .., rxbytes_length _ _ _ _ (by simp), ?_, transferred_link .., transferred_runsXfer _ h hk ..⟩
  rw [xfer_linkAsked_samples _ h hk, zeros_length]
  rfl

/-- Settles O35: `halfDuplexBody` is one transfer of the data and then zeros; the samples before the read phase are dropped. -/
theorem halfDuplexExchangeWritesThenReads : Obligations.HalfDuplexExchangeWritesThenReads := by
  unfold Obligations.HalfDuplexExchangeWritesThenReads
  intro s index d dataOut lengthIn h hpos
  refine ⟨transferErrors_of_isTransfer (.inr (.inr (.inl ⟨dataOut, lengthIn, rfl, hpos, rfl⟩))) s, fun hf hr => ?_⟩
  have hk := hr.index_lt_csMax h
  rw [exec_spiExchange_half index d dataOut lengthIn hpos, hr.transfer_eq hf, halfDuplexBody_linkAsked]
  refine ⟨_, _, rfl, transferred_rsp .., rxbytes_length _ _ _ _ (by simp), ?_, transferred_link .., transferred_runsXfer _ h hk ..⟩
  rw [xfer_linkAsked_samples _ h hk, List.length_append, bits_length, zeros_length, ← Nat.mul_add]
  rfl

/-- A length that fits the 16-bit field stands in the low half of the response word (R62, R71). -/
theorem setWidth_ofNat_length {data : List Byte} (hl : data.length ≤ maxLen) :
    (BitVec.ofNat 16 data.length).setWidth 32 = BitVec.ofNat 32 data.length := by
  refine BitVec.eq_of_toNat_eq ?_
  rw [BitVec.toNat_setWidth, Laws.FieldsReadBack.toNat_payload hl, BitVec.toNat_ofNat]

/-- Settles O36: `duplexBody` is the transfer of the trimmed data that answers the bytes of its samples. -/
theorem duplexExchangeReturnsAsManyBytes : Obligations.DuplexExchangeReturnsAsManyBytes := by
  unfold Obligations.DuplexExchangeReturnsAsManyBytes
  intro s index d dataOut lengthIn h hl
  refine ⟨transferErrors_of_isTransfer (.inr (.inr (.inr (.inr ⟨dataOut, lengthIn, rfl, rfl⟩)))) s, fun hf hr => ?_⟩
  have hk := hr.index_lt_csMax h
  rw [exec_spiExchange_duplex, hr.transfer_eq hf, duplexBody_linkAsked, ← setWidth_ofNat_length hl]
  refine ⟨_, _, rfl, transferred_rsp .., rxbytes_length _ _ _ _ (by simp [txbits_length]), ?_, transferred_link ..,
    transferred_runsXfer _ h hk ..⟩
  rw [xfer_linkAsked_samples _ h hk, txbits_length]
  rfl

/-! ### Loopbacks -/

theorem samplesOf_newEvents_transferred {k : Nat} (o : List Bool) (hp : BusPins s.par k) (v : BitVec 16) (p : List Byte) :
    samplesOf (newEvents s (s.transferred k o v p)) = (xfer k o s.linkAsked).1 :=
  samplesOf_newEvents_xfer (s := s.linkAsked) o hp

/-- Data out holds the train at the samples of a transfer (R121). -/
theorem mosiAtSamples_newEvents_transferred {k : Nat} (o : List Bool) (h : Inv s) (hk : k < s.par.csMax) (v : BitVec 16)
    (p : List Byte) : mosiAtSamples s.par (newEvents s (s.transferred k o v p)) = o := by
  obtain ⟨hm, -⟩ := mosiIsStableAtEachSample s.linkAsked k o h.linkAsked hk
  exact hm

/-- Under a loopback on its own samples a transfer samples the train it sends (R145). -/
theorem xfer_samples_of_loopback {k : Nat} {o : List Bool} {v : BitVec 16} {p : List Byte} (h : Inv s) (hk : k < s.par.csMax)
    (hl : samplesOf (newEvents s (s.transferred k o v p)) = mosiAtSamples s.par (newEvents s (s.transferred k o v p))) :
    (xfer k o s.linkAsked).1 = o := by
  rwa [samplesOf_newEvents_transferred o (Params.busPins h.parValid hk), mosiAtSamples_newEvents_transferred o h hk] at hl

/-- The trimmed data read back from its own train, the trim of R109 a second one (R114). -/
theorem rxbytes_txbits (order : BitOrder) (data : List Byte) (d : Nat) : rxbytes order (txbits order data d) d = trim data d := by
  rw [rxbytes, txbits, deser_bits, trim_trim, Nat.max_self]

/-- Settles O40: the samples are the train of the trimmed data. -/
theorem duplexLoopbackReturnsTheTrimmedData : Obligations.DuplexLoopbackReturnsTheTrimmedData := by
  unfold Obligations.DuplexLoopbackReturnsTheTrimmedData
  intro s t index d data lengthIn h hlen hf hr he hloop
  have hk := hr.index_lt_csMax h
  rw [exec_spiExchange_duplex, hr.transfer_eq hf, duplexBody_linkAsked] at he
  obtain rfl := Host.Outcome.next.inj he
  rw [transferred_rsp, xfer_samples_of_loopback h hk hloop, rxbytes_txbits, setWidth_ofNat_length hlen]
  rfl

theorem bits_replicate_zero (order : BitOrder) (n : Nat) : bits order (List.replicate n 0#8) = zeros n := by
  induction n with
  | zero => rfl
  | succ n ih =>
    have hser : ser order 0#8 = List.replicate 8 false := by cases order <;> rfl
    rw [List.replicate_succ, bits_cons, ih, hser, zeros, zeros, List.replicate_append_replicate, Nat.mul_succ, Nat.add_comm]

theorem trim_replicate_zero (n d : Nat) : trim (List.replicate n 0#8) d = List.replicate n 0#8 := by
  cases n with
  | zero => rfl
  | succ n => rw [List.replicate_succ', trim_concat, BitVec.zero_and]

/-- Zeros sampled are bytes of 0 (R147). -/
theorem rxbytes_zeros (order : BitOrder) (n d : Nat) : rxbytes order (zeros n) d = List.replicate n 0#8 := by
  rw [rxbytes, ← bits_replicate_zero order, deser_bits, trim_replicate_zero]

/-- Settles O41: the samples are the zeros that a read sends. -/
theorem wireLoopbackReadsZeros : Obligations.WireLoopbackReadsZeros := by
  unfold Obligations.WireLoopbackReadsZeros
  intro s t index d length h hf hr he hloop
  have hk := hr.index_lt_csMax h
  rw [exec_spiRead, hr.transfer_eq hf, readBody_linkAsked] at he
  obtain rfl := Host.Outcome.next.inj he
  rw [transferred_rsp, xfer_samples_of_loopback h hk hloop, rxbytes_zeros]

theorem newEvents_raise (e : ErrorClass) (s : State) : newEvents s (s.raise e) = [] :=
  newEvents_of_history (List.append_nil s.history).symm

theorem newEvents_linkFailure (a b : PinWord) (s : State) : newEvents s (s.linkAsked.linkFailure a b) = [.lost] :=
  newEvents_of_history rfl

/-- A transfer that took a sample passed its checks and the link held. -/
theorem transfer_eq_of_sampled {index d : BitVec 8} {len : Nat} {body : State → State}
    (h : samplesOf (newEvents s (transfer index d len body s)) ≠ []) : transfer index d len body s = body s.linkAsked := by
  rcases transfer_cases index d len body s with ⟨e, -, ht⟩ | ⟨-, -, ht⟩ | ⟨-, -, ht⟩
  · rw [ht, newEvents_raise] at h
    exact absurd rfl h
  · rw [ht, newEvents_linkFailure] at h
    exact absurd rfl h
  · exact ht

/-- Settles O42: the read ran, since it took samples, and they are the train of the write. -/
theorem storingLoopbackReturnsTheTrimmedData : Obligations.StoringLoopbackReturnsTheTrimmedData := by
  unfold Obligations.StoringLoopbackReturnsTheTrimmedData
  intro s t u index d data h hpos hlen hf hr hw hread hstored
  have hk := hr.index_lt_csMax h
  rw [exec_spiWrite, hr.transfer_eq hf, writeBody_linkAsked] at hw
  have ht : t = s.transferred index.toNat (txbits (s.portAt index.toNat).order data (dropCount d)) 0#16 [] :=
    (Host.Outcome.next.inj hw).symm
  have hregs : SameRegisters s t := ht ▸ sameRegisters_transferred ..
  have hp : BusPins t.par index.toNat := hregs.par ▸ Params.busPins h.parValid hk
  have hsent : mosiAtSamples s.par (newEvents s t) = txbits (s.portAt index.toNat).order data (dropCount d) :=
    ht ▸ mosiAtSamples_newEvents_transferred _ h hk ..
  rw [hsent] at hstored
  have hsampled : samplesOf (newEvents t u) ≠ [] := by
    rw [hstored]
    exact List.ne_nil_of_length_pos (by rw [txbits_length]; omega)
  rw [exec_spiRead] at hread
  obtain rfl := Host.Outcome.next.inj hread
  rw [transfer_eq_of_sampled hsampled, readBody_linkAsked] at hstored ⊢
  rw [samplesOf_newEvents_transferred _ hp] at hstored
  rw [transferred_rsp, hstored, hregs.portAt_eq, rxbytes_txbits, setWidth_ofNat_length hlen]
  rfl

/-! ### What a transfer leaves alone -/

/-- What a transfer on port `k` from `s` to `t` leaves alone: registers, enables and the pins outside the bus; at its micro-steps the
pins it does not move, and at its end too if the link held (R148, R52); then, from rest, all but the clock (R55). -/
def LeavesOtherPinsAlone (k : Nat) (s t : State) : Prop :=
  SameRegisters s t ∧ t.oe = s.oe ∧ (∀ p, s.spiClaim.getLsbD p = false → t.drv.getLsbD p = s.drv.getLsbD p) ∧
  (∀ p, p ≠ s.par.sckPin → p ≠ s.par.mosiPin → p ≠ s.par.csPin k →
    (t.rsp ≠ some (errorResponse .transport) → t.drv.getLsbD p = s.drv.getLsbD p) ∧
    ∀ m, .micro m ∈ newEvents s t → m.drv.getLsbD p = s.drv.getLsbD p ∧ m.oe = s.oe) ∧
  (PinInv s → t.rsp ≠ some (errorResponse .transport) →
    t = { s with drv := t.drv, rsp := t.rsp, link := t.link, envIn := t.envIn, fresh := t.fresh, history := t.history } ∧
    ∀ p, p ≠ s.par.sckPin → t.drv.getLsbD p = s.drv.getLsbD p)

theorem raise_leavesOtherPinsAlone (k : Nat) (e : ErrorClass) (s : State) : LeavesOtherPinsAlone k s (s.raise e) := by
  refine ⟨sameRegisters_raise e s, rfl, fun _ _ => rfl, fun p _ _ _ => ⟨fun _ => rfl, fun m hm => ?_⟩, fun _ _ => ⟨rfl, fun _ _ => rfl⟩⟩
  rw [newEvents_raise] at hm
  cases hm

/-- The latches that a broken link frees are those of the bus; which micro-steps ran is not said (R184, log 11). -/
theorem linkFailure_leavesOtherPinsAlone (k : Nat) (s : State) :
    LeavesOtherPinsAlone k s (s.linkAsked.linkFailure s.spiClaim 0#16) := by
  have hrsp : (s.linkAsked.linkFailure s.spiClaim 0#16).rsp = some (errorResponse .transport) := rfl
  refine ⟨sameRegisters_linkFailure _ _ s, pinWord_ext fun p _ => ?_, fun p hp => ?_,
    fun p _ _ _ => ⟨fun hne => absurd hrsp hne, fun m hm => ?_⟩, fun _ hne => absurd hrsp hne⟩
  · exact (getLsbD_mergePins 0#16 _ s.oe p).trans (by simp)
  · exact (getLsbD_mergePins s.spiClaim _ s.drv p).trans (by rw [hp]; rfl)
  · rw [newEvents_linkFailure] at hm
    simp at hm

/-- Clock, data out and the selects are pins of the bus (R14). -/
theorem Inv.spiClaim_busPins (h : Inv s) (ho : s.isOpen = true) {k : Nat} (hk : k < s.csCount.toNat) :
    s.spiClaim.getLsbD s.par.sckPin = true ∧ s.spiClaim.getLsbD s.par.mosiPin = true ∧
      s.spiClaim.getLsbD (s.par.csPin k) = true := by
  obtain ⟨-, -, hsck, hmosi, -, -, -, -, hcs, -⟩ := (Params.valid_iff _).1 h.parValid
  have hkm := h.index_lt_csMax ho hk
  have hlt : s.par.csPin k < s.par.w := by simp only [Params.csPin]; omega
  simp [getLsbD_spiClaim s h.width, h.ledgerSck ho, h.ledgerMosi ho, h.ledgerCs ho k hk, hsck, hmosi, hlt, Owner.isSpi]

/-- A completed transfer that found `SEQ` idle and no select leaves the block's state but for its latches (R55, R126). -/
theorem TransferDone.eq_of_rest {k n : Nat} (h : TransferDone k n s t) (ha : s.activeCs = none) (hq : s.seq.st = .idle) :
    t = { s with drv := t.drv, rsp := t.rsp, link := t.link, envIn := t.envIn, fresh := t.fresh, history := t.history } := by
  obtain ⟨⟨h1, h2, h3, h4, h5, h6, h7, h8⟩, ⟨h9, h10, h11⟩, hf, ho, -, -, -, -, hact, hseq, -⟩ := h
  have hact : t.activeCs = s.activeCs := hact.trans ha.symm
  have hseq : t.seq = s.seq := by rw [hseq, ← hq]
  cases t
  simp_all

/-- A completed transfer: `TransferDone`, and its events are those of `XFER`. -/
theorem transferred_leavesOtherPinsAlone {k : Nat} (o : List Bool) (v : BitVec 16) (p : List Byte) (h : Inv s)
    (ho : s.isOpen = true) (hk : k < s.csCount.toNat) : LeavesOtherPinsAlone k s (s.transferred k o v p) := by
  have hkm := h.index_lt_csMax ho hk
  have hdone := transferred_transferDone o h hkm v p
  obtain ⟨hsck, hmosi, hcs⟩ := h.spiClaim_busPins ho hk
  refine ⟨hdone.registers, hdone.oe, fun p hp => ?_, fun p h1 h2 h3 => ⟨fun _ => hdone.otherPins p h1 h2 h3, fun m hm => ?_⟩,
    fun hrest _ => ⟨hdone.eq_of_rest hrest.noSelect hrest.seqIdle, fun p h1 => ?_⟩⟩
  · exact hdone.otherPins p (fun e => by simp [e, hsck] at hp) (fun e => by simp [e, hmosi] at hp)
      (fun e => by simp [e, hcs] at hp)
  · obtain ⟨_, hx, hoe, -, hdrv⟩ := offBusEvent_of_mem_newEvents_xfer (s := s.linkAsked) o (Params.busPins h.parValid hkm) hm
    obtain rfl := PinEvent.micro.inj hx
    exact ⟨hdrv p h1 h2 h3, hoe⟩
  · by_cases h2 : p = s.par.mosiPin
    · rw [h2, hdone.mosi, hrest.mosiLow ho]
    · by_cases h3 : p = s.par.csPin k
      · rw [h3, hdone.select, hrest.selectsHigh ho k hk]
      · exact hdone.otherPins p h1 h2 h3

/-- Settles O43: a transfer raises an error, the link breaks, or it completes (`exec_transfer_inv`). -/
theorem transfersLeaveOtherPinsAlone : Obligations.TransfersLeaveOtherPinsAlone := by
  unfold Obligations.TransfersLeaveOtherPinsAlone
  intro s t i index d len h hi he
  rw [← errorResponse_transport]
  show LeavesOtherPinsAlone index.toNat s t
  rcases exec_transfer_inv hi he with ⟨e, -, rfl⟩ | ⟨-, -, rfl⟩ | ⟨hc, -, o, v, p, rfl⟩
  · exact raise_leavesOtherPinsAlone _ e s
  · exact linkFailure_leavesOtherPinsAlone _ s
  · obtain ⟨-, ho, hk, -⟩ := (checkXfer_none_iff ..).1 hc
    exact transferred_leavesOtherPinsAlone o v p h ho hk

end Sys2Proof.Machine

/-! PROOFS. The GPIO operations (44_gpio.md): the checks they share (O45), what GPIO_SET_DIRECTION, GPIO_WRITE and GPIO_READ do (O46,
O47, O48), what none of them touches (O49), and a write read back over a wire (O50). -/

namespace Sys2Proof.Machine

variable {s t : State}

/-! ### The checks -/

theorem checkGpio_of_unusable (h : s.isOpen = false ∨ s.gpioClaimed = false) : checkGpio s = some .configuration := by
  cases hc : checkGpio s with
  | none =>
    obtain ⟨ho, hg⟩ := (checkGpio_none_iff s).1 hc
    simp [ho, hg] at h
  | some e =>
    obtain ⟨rfl, -⟩ := checkGpio_some hc
    rfl

/-- Settles O45: each of the three operations begins with `checkGpio`. -/
theorem bankChecksComeFirst : Obligations.BankChecksComeFirst := by
  unfold Obligations.BankChecksComeFirst
  intro s i hi h
  have hc := checkGpio_of_unusable h
  rw [← State.raise_configuration]
  rcases hi with ⟨m, o, rfl⟩ | ⟨v, rfl⟩ | rfl
  · simp only [exec, execGpioSetDirection, hc]
  · simp only [exec, execGpioWrite, hc]
  · simp only [exec, execGpioRead, hc]

/-- On a usable bank GPIO_SET_DIRECTION checks its mask, then asks the link (R160). -/
theorem exec_gpioSetDirection_of_usable (hc : checkGpio s = none) (m o : PinWord) :
    exec (.gpioSetDirection m o) s = .next (if m &&& ~~~s.gpioClaim ≠ 0#16 then s.raise .invalidArgument
      else s.askLink (State.linkFailure m m) fun u => (u.setDirection m o).answerOk 0#16 []) := by
  simp only [exec, execGpioSetDirection, hc]

/-- On a usable bank GPIO_WRITE checks its value, then asks the link (R163). -/
theorem exec_gpioWrite_of_usable (hc : checkGpio s = none) (v : PinWord) :
    exec (.gpioWrite v) s = .next (if v &&& ~~~s.dir ≠ 0#16 then s.raise .gpioConflict
      else s.askLink (State.linkFailure s.dir 0#16) fun u => (u.writeBank v).answerOk 0#16 []) := by
  simp only [exec, execGpioWrite, hc]

/-- On a usable bank GPIO_READ has no operand to check and asks the link (R166). -/
theorem exec_gpioRead_of_usable (hc : checkGpio s = none) :
    exec .gpioRead s = .next (s.askLink (State.linkFailure 0#16 0#16) fun u =>
      (u.samplePins u.gpioClaim).2.answerOk (u.samplePins u.gpioClaim).1 []) := by
  simp only [exec, execGpioRead, hc]

theorem State.raise_gpioConflict (s : State) : s.raise .gpioConflict = { s with rsp := some ⟨0x03000000#32, []⟩ } := by
  rw [State.raise_eq, errorResponse_gpioConflict]

theorem linkFailure_rsp (a b : PinWord) (s : State) : (s.linkFailure a b).rsp = some ⟨0x04000000#32, []⟩ :=
  congrArg some errorResponse_transport

/-! ### GPIO_SET_DIRECTION -/

section
variable (m o : PinWord) (s : State) (p : Nat)

theorem getLsbD_setDirection_dir :
    (s.setDirection m o).dir.getLsbD p = if m.getLsbD p then o.getLsbD p else s.dir.getLsbD p := getLsbD_newDir s.dir m o p

theorem getLsbD_setDirection_out :
    (s.setDirection m o).out.getLsbD p = (s.out.getLsbD p && (s.setDirection m o).dir.getLsbD p) := BitVec.getLsbD_and

theorem getLsbD_setDirection_oe : (s.setDirection m o).oe.getLsbD p
    = if m.getLsbD p then (s.setDirection m o).dir.getLsbD p else s.oe.getLsbD p := getLsbD_mergePins m _ s.oe p

theorem getLsbD_setDirection_drv : (s.setDirection m o).drv.getLsbD p
    = if m.getLsbD p && (s.setDirection m o).dir.getLsbD p then (s.setDirection m o).out.getLsbD p else s.drv.getLsbD p := by
  rw [← BitVec.getLsbD_and]
  exact getLsbD_mergePins _ _ s.drv p

/-- Outside the mask `DIR` is as before, so `OUT` loses a bit there only if it had one outside `DIR` (R20 (b)). -/
theorem getLsbD_setDirection_out_of_unnamed (hout : s.out &&& ~~~s.dir = 0#16) (hp : m.getLsbD p = false) :
    (s.setDirection m o).out.getLsbD p = s.out.getLsbD p := by
  have hsub := (subset_iff _ _).1 hout p
  rw [getLsbD_setDirection_out, getLsbD_setDirection_dir, hp]
  cases h : s.out.getLsbD p with
  | false => rfl
  | true => simpa using hsub h

end

/-- Settles O46: `DIR`, `OUT`, `OE` and `DRV` after `setDirection` pin by pin, the rest by definition. -/
theorem setDirectionChangesTheNamedPins : Obligations.SetDirectionChangesTheNamedPins := by
  unfold Obligations.SetDirectionChangesTheNamedPins
  intro s m o
  refine ⟨bankChecksComeFirst s _ (.inl ⟨m, o, rfl⟩), fun ho hg => ?_⟩
  rw [exec_gpioSetDirection_of_usable ((checkGpio_none_iff s).2 ⟨ho, hg⟩), ← State.raise_invalidArgument]
  refine ⟨fun hm => by rw [if_pos hm], fun hm hl => ?_, fun hm hl => ?_⟩ <;> rw [if_neg (not_not.2 hm)]
  · rw [State.askLink_down _ _ hl]
    exact ⟨_, rfl, linkFailure_rsp .., sameRegisters_linkFailure m m s⟩
  · rw [State.askLink_up _ _ hl]
    exact ⟨_, rfl, answerOk_rsp .., getLsbD_setDirection_dir m o s.linkAsked, getLsbD_setDirection_out m o s.linkAsked,
      fun hout p hp => getLsbD_setDirection_out_of_unnamed m o s.linkAsked p hout hp, getLsbD_setDirection_oe m o s.linkAsked,
      getLsbD_setDirection_drv m o s.linkAsked, rfl⟩

/-! ### GPIO_WRITE -/

section
variable (v : PinWord) (s : State)

theorem getLsbD_writeBank_out (p : Nat) :
    (s.writeBank v).out.getLsbD p = if s.dir.getLsbD p then v.getLsbD p else s.out.getLsbD p := getLsbD_mergePins s.dir v s.out p

theorem getLsbD_writeBank_drv (p : Nat) :
    (s.writeBank v).drv.getLsbD p = if s.dir.getLsbD p then v.getLsbD p else s.drv.getLsbD p := getLsbD_mergePins s.dir v s.drv p

/-- With `OUT` and the value both within `DIR`, `OUT` is the value: outside `DIR` both are 0. -/
theorem writeBank_out (hv : ∀ p, v.getLsbD p = true → s.dir.getLsbD p = true) (hout : s.out &&& ~~~s.dir = 0#16) :
    (s.writeBank v).out = v := by
  refine pinWord_ext fun p _ => ?_
  have hsub := (subset_iff _ _).1 hout p
  rw [getLsbD_writeBank_out]
  cases hd : s.dir.getLsbD p with
  | true => rfl
  | false =>
    have hvp : v.getLsbD p = false := by simpa [hd] using hv p
    have hop : s.out.getLsbD p = false := by simpa [hd] using hsub
    rw [hvp, hop]; rfl

end

/-- Settles O47: `OUT` and `DRV` after `writeBank` pin by pin, the rest by definition. -/
theorem gpioWriteDrivesTheOutputs : Obligations.GpioWriteDrivesTheOutputs := by
  unfold Obligations.GpioWriteDrivesTheOutputs
  intro s v
  refine ⟨bankChecksComeFirst s _ (.inr (.inl ⟨v, rfl⟩)), fun ho hg => ?_⟩
  rw [exec_gpioWrite_of_usable ((checkGpio_none_iff s).2 ⟨ho, hg⟩), ← State.raise_gpioConflict]
  refine ⟨fun ⟨p, hp, hd⟩ => ?_, fun hv hl => ?_, fun hv hl => ?_⟩
  · have hne : v &&& ~~~s.dir ≠ 0#16 := fun hsub => by simp [(subset_iff _ _).1 hsub p hp] at hd
    rw [if_pos hne]
  · rw [if_neg (not_not.2 ((subset_iff _ _).2 hv)), State.askLink_down _ _ hl]
    exact ⟨_, rfl, linkFailure_rsp .., sameRegisters_linkFailure s.dir 0#16 s⟩
  · rw [if_neg (not_not.2 ((subset_iff _ _).2 hv)), State.askLink_up _ _ hl]
    exact ⟨_, rfl, answerOk_rsp .., getLsbD_writeBank_out v s.linkAsked, getLsbD_writeBank_drv v s.linkAsked,
      writeBank_out v s.linkAsked hv, rfl⟩

/-! ### GPIO_READ -/

/-- A read asks the environment at most, and changes nothing else (R46). -/
theorem samplePins_snd_eq (m : PinWord) (s : State) :
    (s.samplePins m).2 = { s with envIn := (s.samplePins m).2.envIn, fresh := (s.samplePins m).2.fresh } := by
  unfold State.samplePins State.envAsked
  repeat' split
  all_goals rfl

/-- While every pin of the mask is driven, nobody is asked (R22). -/
theorem samplePins_snd_of_driven {m : PinWord} (h : ∀ p, m.getLsbD p = true → s.oe.getLsbD p = true) :
    (s.samplePins m).2 = s := by
  rw [State.samplePins, if_pos ((subset_iff _ _).2 h)]

/-- With the latches in step with the bank (R20 (c)), a claimed pin is read at `OUT` where it is an output and at the environment's
level where it is an input. -/
theorem PinInv.getLsbD_snapshot (h : PinInv s) (p : Nat) : (s.samplePins s.gpioClaim).1.getLsbD p
    = (s.gpioClaim.getLsbD p && if s.dir.getLsbD p then s.out.getLsbD p else s.envNow.getLsbD p) := by
  rw [State.samplePins_getLsbD]
  cases hc : s.gpioClaim.getLsbD p with
  | false => rfl
  | true =>
    rw [h.bankEnable p hc]
    cases hd : s.dir.getLsbD p with
    | false => rfl
    | true => rw [h.bankLevel p hd]

/-- On a usable bank, the link holding, GPIO_READ answers the snapshot. -/
theorem BankReady.exec_gpioRead (h : BankReady s) :
    exec .gpioRead s = .next ((s.linkAsked.samplePins s.gpioClaim).2.answerOk (s.samplePins s.gpioClaim).1 []) := by
  have hc := h.checkGpio_eq_none
  obtain ⟨-, -, hl⟩ := h
  rw [exec_gpioRead_of_usable hc, State.askLink_up _ _ hl, State.linkAsked_gpioClaim, State.linkAsked_samplePins_fst]

/-- Settles O48: the snapshot pin by pin is `State.samplePins_getLsbD`, the frame `samplePins_snd_eq`. -/
theorem gpioReadSamplesTheClaimedPins : Obligations.GpioReadSamplesTheClaimedPins := by
  unfold Obligations.GpioReadSamplesTheClaimedPins
  intro s
  refine ⟨bankChecksComeFirst s _ (.inr (.inr rfl)), fun ho hg => ⟨fun hl => ?_, fun hl => ?_⟩⟩
  · rw [exec_gpioRead_of_usable ((checkGpio_none_iff s).2 ⟨ho, hg⟩), State.askLink_down _ _ hl]
    exact ⟨_, rfl, linkFailure_rsp .., sameRegisters_linkFailure 0#16 0#16 s⟩
  · have hready : BankReady s := ⟨ho, hg, hl⟩
    refine ⟨_, _, hready.exec_gpioRead, answerOk_rsp .., State.samplePins_getLsbD s.gpioClaim s,
      fun hpin => hpin.getLsbD_snapshot, ?_, fun hdriven => ?_⟩
    · rw [samplePins_snd_eq]; rfl
    · rw [samplePins_snd_of_driven (s := s.linkAsked) hdriven]
      exact ⟨rfl, rfl⟩

/-! ### What a GPIO operation leaves alone -/

/-- What a GPIO operation from `s` to `t` leaves alone: the latches of the unclaimed pins, ports and owners, and, if it found the link
up, the select and the sequencer (R169, R52, R184). -/
def LeavesBusAlone (s t : State) : Prop :=
  (∀ p, s.gpioClaim.getLsbD p = false → t.drv.getLsbD p = s.drv.getLsbD p ∧ t.oe.getLsbD p = s.oe.getLsbD p) ∧
  t.ports = s.ports ∧ t.owner = s.owner ∧ (s.linkOk = true → t.activeCs = s.activeCs ∧ t.seq = s.seq)

/-- A mask within the claim names no unclaimed pin. -/
theorem getLsbD_eq_false_of_unclaimed {m : PinWord} (hm : m &&& ~~~s.gpioClaim = 0#16) {p : Nat}
    (hp : s.gpioClaim.getLsbD p = false) : m.getLsbD p = false := by
  simpa [hp] using (subset_iff _ _).1 hm p

theorem raise_leavesBusAlone (e : ErrorClass) (s : State) : LeavesBusAlone s (s.raise e) :=
  ⟨fun _ _ => ⟨rfl, rfl⟩, rfl, rfl, fun _ => ⟨rfl, rfl⟩⟩

/-- A broken link frees the latches of its two masks; the select and the sequencer too, but then the link was down (R184). -/
theorem linkFailure_leavesBusAlone {a b : PinWord} (ha : a &&& ~~~s.gpioClaim = 0#16) (hb : b &&& ~~~s.gpioClaim = 0#16)
    (hl : s.linkOk = false) : LeavesBusAlone s (s.linkAsked.linkFailure a b) := by
  refine ⟨fun p hp => ⟨?_, ?_⟩, rfl, rfl, fun hup => by cases hl.symm.trans hup⟩
  · exact (getLsbD_mergePins a _ s.drv p).trans (by rw [getLsbD_eq_false_of_unclaimed ha hp]; rfl)
  · exact (getLsbD_mergePins b _ s.oe p).trans (by rw [getLsbD_eq_false_of_unclaimed hb hp]; rfl)

theorem setDirection_leavesBusAlone {m : PinWord} (o v : PinWord) (hm : m &&& ~~~s.gpioClaim = 0#16) :
    LeavesBusAlone s ((s.linkAsked.setDirection m o).answerOk v []) := by
  refine ⟨fun p hp => ?_, rfl, rfl, fun _ => ⟨rfl, rfl⟩⟩
  have hmp := getLsbD_eq_false_of_unclaimed hm hp
  rw [State.answerOk_drv, State.answerOk_oe, getLsbD_setDirection_drv, getLsbD_setDirection_oe, hmp]
  exact ⟨rfl, rfl⟩

/-- GPIO_WRITE drives outputs, which are claimed pins (R20 (a)). -/
theorem writeBank_leavesBusAlone (w v : PinWord) (hd : s.dir &&& ~~~s.gpioClaim = 0#16) :
    LeavesBusAlone s ((s.linkAsked.writeBank w).answerOk v []) := by
  refine ⟨fun p hp => ⟨?_, rfl⟩, rfl, rfl, fun _ => ⟨rfl, rfl⟩⟩
  rw [State.answerOk_drv, getLsbD_writeBank_drv, State.linkAsked_dir, getLsbD_eq_false_of_unclaimed hd hp]
  rfl

theorem samplePins_leavesBusAlone (m v : PinWord) (s : State) :
    LeavesBusAlone s ((s.linkAsked.samplePins m).2.answerOk v []) := by
  rw [samplePins_snd_eq]
  exact ⟨fun _ _ => ⟨rfl, rfl⟩, rfl, rfl, fun _ => ⟨rfl, rfl⟩⟩

/-- Settles O49: each operation raises an error, finds the link down, or completes, on masks within the claim. -/
theorem gpioLeavesTheBusAlone : Obligations.GpioLeavesTheBusAlone := by
  unfold Obligations.GpioLeavesTheBusAlone
  intro s t i h hi he
  show LeavesBusAlone s t
  rcases hi with ⟨m, o, rfl⟩ | ⟨v, rfl⟩ | rfl
  · rcases exec_gpioSetDirection_inv he with ⟨e, rfl, -⟩ | ⟨-, hm, hl, rfl⟩ | ⟨-, hm, -, rfl⟩
    · exact raise_leavesBusAlone e s
    · exact linkFailure_leavesBusAlone (not_not.1 hm) (not_not.1 hm) hl
    · exact setDirection_leavesBusAlone o 0#16 (not_not.1 hm)
  · rcases exec_gpioWrite_inv he with ⟨e, rfl, -⟩ | ⟨-, -, hl, rfl⟩ | ⟨-, -, -, rfl⟩
    · exact raise_leavesBusAlone e s
    · exact linkFailure_leavesBusAlone h.dirClaimed BitVec.zero_and hl
    · exact writeBank_leavesBusAlone v 0#16 h.dirClaimed
  · rcases exec_gpioRead_inv he with ⟨e, -, rfl⟩ | ⟨-, hl, rfl⟩ | ⟨-, -, rfl⟩
    · exact raise_leavesBusAlone e s
    · exact linkFailure_leavesBusAlone BitVec.zero_and BitVec.zero_and hl
    · exact samplePins_leavesBusAlone _ _ s

/-! ### A write read back -/

/-- In a state in step with the bank, the snapshot has `OUT`'s bit at an output pin, and at an input pin wired to it. -/
theorem snapshot_of_wired {a b : Nat} (hi : Inv s) (hpin : PinInv s) (ha : s.gpioClaim.getLsbD a = true)
    (hda : s.dir.getLsbD a = false) (hdb : s.dir.getLsbD b = true)
    (hwire : s.envNow.getLsbD a = (pinLevels s.drv s.oe s.envNow).getLsbD b) :
    (s.samplePins s.gpioClaim).1.getLsbD a = s.out.getLsbD b ∧ (s.samplePins s.gpioClaim).1.getLsbD b = s.out.getLsbD b := by
  have hb : s.gpioClaim.getLsbD b = true := hi.dir_claim hdb
  have henv : s.envNow.getLsbD a = s.out.getLsbD b := by
    rw [hwire, pinLevels, getLsbD_mergePins, hpin.bankEnable b hb, hdb, if_pos rfl, hpin.bankLevel b hdb]
  constructor
  · rw [hpin.getLsbD_snapshot, ha, hda, ← henv]; rfl
  · rw [hpin.getLsbD_snapshot, hb, hdb]; rfl

/-- Settles O50: the write leaves a state in step with the bank (`good_exec_gpioWrite`), whose `OUT` at `b` is the value's bit. -/
theorem pairedPinsReadBack : Obligations.PairedPinsReadBack := by
  unfold Obligations.PairedPinsReadBack
  intro s v a b hgood hsafe hready hv ha hda hdb
  have he : exec (.gpioWrite v) s = .next ((s.linkAsked.writeBank v).answerOk 0#16 []) := by
    rw [hready.exec_gpioWrite, if_neg (not_not.2 ((subset_iff _ _).2 hv))]
  refine ⟨_, he, fun hl => ?_⟩
  obtain ⟨ho, hg, -⟩ := hready
  have hready' : BankReady ((s.linkAsked.writeBank v).answerOk 0#16 []) := ⟨ho, hg, hl⟩
  obtain ⟨hinv, hpin⟩ := good_exec_gpioWrite hgood he
  have hout : ((s.linkAsked.writeBank v).answerOk 0#16 []).out.getLsbD b = v.getLsbD b :=
    (getLsbD_writeBank_out v s.linkAsked b).trans (if_pos hdb)
  refine ⟨_, _, hready'.exec_gpioRead, answerOk_rsp .., fun hwire => ?_⟩
  rw [← hout]
  exact snapshot_of_wired hinv (hpin hsafe) ha hda hdb hwire

end Sys2Proof.Machine

/-! PROOFS. The errors (60_exceptions.md): the status each operation answers (O54), what the errors before the link leave alone (O53),
when GPIO_WRITE conflicts (O55), what a broken link keeps (O56), and TERMINATE after it (O60). -/

namespace Sys2Proof.Machine

variable {s t : State}

/-! ### The status of an operation that a check stops, or that none does -/

theorem not_legalFields_iff (d : BitVec 8) (len : Nat) :
    ¬ LegalFields d len ↔ d.toInt < 0 ∨ 7 < d.toInt ∨ len = 0 ∧ 0 < d.toInt := by
  unfold LegalFields
  omega

/-- The table of R188 for a transfer, by the checks of R146. -/
theorem transferStatus_of_checkXfer_some {index d : BitVec 8} {len : Nat} {e : ErrorClass} (h : checkXfer index d len s = some e) :
    transferStatus index d len s = e.code := by
  have hfields := not_legalFields_iff d len
  unfold transferStatus
  rcases checkXfer_some h with ⟨rfl, hf⟩ | ⟨rfl, hf, hport⟩
  · rw [if_pos (hfields.1 hf)]; rfl
  · rw [if_neg (mt hfields.2 (not_not.2 hf)), if_pos hport]; rfl

theorem transferStatus_of_checkXfer_none {index d : BitVec 8} {len : Nat} (h : checkXfer index d len s = none) :
    transferStatus index d len s = if s.linkOk = false then 4#8 else 0#8 := by
  obtain ⟨hf, ho, hk, hv⟩ := (checkXfer_none_iff ..).1 h
  unfold transferStatus
  rw [if_neg (mt (not_legalFields_iff d len).2 (not_not.2 hf)), if_neg (by simp [ho, hv, hk])]

theorem IsTransfer.expectedStatus_eq {i : Instr} {index d : BitVec 8} {len : Nat} (h : IsTransfer i index d len) (s : State) :
    expectedStatus s i = transferStatus index d len s := by
  rcases h with ⟨data, rfl, rfl⟩ | ⟨n, rfl, rfl⟩ | ⟨data, n, rfl, hn, rfl⟩ | ⟨data, n, rfl, hn, rfl⟩ | ⟨data, n, rfl, rfl⟩
  · rfl
  · rfl
  · simp [expectedStatus, hn]
  · simp [expectedStatus, hn]
  · simp [expectedStatus]

/-! ### How an operation ends -/

/-- The pins at which the operation could write `DRV` once it asks the link (R184, U2). -/
def State.drivable (s : State) : Instr → PinWord
  | .spiWrite _ _ _ => s.spiClaim
  | .spiRead _ _ _ => s.spiClaim
  | .spiExchange _ _ _ _ _ => s.spiClaim
  | .gpioSetDirection m _ => m
  | .gpioWrite _ => s.dir
  | .gpioRead => 0#16
  | .configure _ => 0#16
  | .getPort _ _ _ _ => 0#16
  | .getGpio => 0#16
  | .terminate => 0#16

/-- The pins at which it could write `OE` (R184, U2). -/
def enablable : Instr → PinWord
  | .gpioSetDirection m _ => m
  | _ => 0#16

theorem IsTransfer.drivable_eq {i : Instr} {index d : BitVec 8} {len : Nat} (h : IsTransfer i index d len) (s : State) :
    s.drivable i = s.spiClaim := by
  rcases h with ⟨_, rfl, -⟩ | ⟨_, rfl, -⟩ | ⟨_, _, rfl, -⟩ | ⟨_, _, rfl, -⟩ | ⟨_, _, rfl, -⟩ <;> rfl

theorem enablable_eq_zero {i : Instr} (h : ∀ m o, i ≠ .gpioSetDirection m o) : enablable i = 0#16 := by
  unfold enablable
  split
  · next m o => exact absurd rfl (h m o)
  · rfl

theorem IsTransfer.enablable_eq {i : Instr} {index d : BitVec 8} {len : Nat} (h : IsTransfer i index d len) : enablable i = 0#16 := by
  rcases h with ⟨_, rfl, -⟩ | ⟨_, rfl, -⟩ | ⟨_, _, rfl, -⟩ | ⟨_, _, rfl, -⟩ | ⟨_, _, rfl, -⟩ <;> rfl

/-- The ends of an operation, each with the status of the table (R181 to R184): a check fails and nothing is asked; CONFIGURE asks
for the device and it is not there; the link is asked and breaks; the operation completes. -/
inductive EndsIn (s : State) (i : Instr) : State → Prop where
  | rejected {e : ErrorClass} (he : e ≠ .transport) (hs : expectedStatus s i = e.code) : EndsIn s i (s.raise e)
  | noDevice {n : BitVec 8} (hi : i = .configure n) (hs : expectedStatus s i = 1#8) :
      EndsIn s i (s.deviceAsked.raise .configuration)
  | linkBroken (hs : expectedStatus s i = 4#8) : EndsIn s i (s.linkAsked.linkFailure (s.drivable i) (enablable i))
  | completed {t : State} {v : BitVec 16} {p : List Byte} (ht : t.rsp = some (okResponse v p)) (hs : expectedStatus s i = 0#8) :
      EndsIn s i t

theorem exec_transfer_endsIn {i : Instr} {index d : BitVec 8} {len : Nat} (hi : IsTransfer i index d len) (h : exec i s = .next t) :
    EndsIn s i t := by
  have hstatus := hi.expectedStatus_eq s
  rcases exec_transfer_inv hi h with ⟨e, hc, rfl⟩ | ⟨hc, hl, rfl⟩ | ⟨hc, hl, o, v, p, rfl⟩
  · rw [transferStatus_of_checkXfer_some hc] at hstatus
    refine .rejected ?_ hstatus
    rcases checkXfer_some hc with ⟨rfl, -⟩ | ⟨rfl, -⟩ <;> decide
  · rw [transferStatus_of_checkXfer_none hc, if_pos hl] at hstatus
    rw [← hi.drivable_eq s, ← hi.enablable_eq]
    exact .linkBroken hstatus
  · rw [transferStatus_of_checkXfer_none hc, if_neg (by simp [hl])] at hstatus
    exact .completed (State.answerOk_rsp ..) hstatus

theorem exec_configure_endsIn {n : BitVec 8} (h : exec (.configure n) s = .next t) : EndsIn s (.configure n) t := by
  rcases exec_configure_inv h with ⟨hbad, rfl⟩ | ⟨-, -, -, hd, rfl⟩ | ⟨ho, h1, hn, hd, rfl⟩
  · exact .rejected (by decide) (if_pos (hbad.imp_right (·.imp_right .inl)))
  · exact .noDevice rfl (if_pos (.inr (.inr (.inr hd))))
  · refine .completed (State.answerOk_rsp ..) (if_neg fun hbad => ?_)
    simp only [ho, hd, Bool.false_eq_true, Bool.true_eq_false, false_or, or_false] at hbad
    omega

theorem exec_getPort_endsIn {index : BitVec 8} {freq : BitVec 32} {mode : Mode} {order : BitOrder}
    (h : exec (.getPort index freq mode order) s = .next t) : EndsIn s (.getPort index freq mode order) t := by
  rcases exec_getPort_inv h with ⟨hbad, rfl⟩ | ⟨ho, hk, h1, h2, rfl⟩
  · exact .rejected (by decide) (if_pos hbad)
  · refine .completed (State.answerOk_rsp ..) (if_neg fun hbad => ?_)
    simp only [ho, Bool.true_eq_false, false_or] at hbad
    omega

theorem exec_getGpio_endsIn (h : exec .getGpio s = .next t) : EndsIn s .getGpio t := by
  rcases exec_getGpio_inv h with ⟨hbad, rfl⟩ | ⟨ho, hg, rfl⟩ | ⟨ho, -, ha, rfl⟩
  · refine .rejected (by decide) (if_pos (hbad.imp_right fun ⟨hg, ha⟩ => ⟨hg, ?_⟩))
    simpa [State.anyPort] using ha
  · exact .completed (State.answerOk_rsp ..) (if_neg (by simp [ho, hg]))
  · obtain ⟨k, hk, hv⟩ := s.anyPort_iff.1 ha
    refine .completed (State.answerOk_rsp ..) (if_neg ?_)
    rintro (hc | ⟨-, hno⟩)
    · cases ho.symm.trans hc
    · cases hv.symm.trans (hno k hk)

theorem exec_terminate_endsIn (h : exec .terminate s = .next t) : EndsIn s .terminate t := by
  obtain rfl := exec_terminate_inv h
  exact .completed (State.answerOk_rsp ..) rfl

/-- GPIO_SET_DIRECTION and GPIO_WRITE have rows of one shape in the table, as they have checks of one shape (`bankOperation_inv`). -/
theorem bankOperation_endsIn {i : Instr} {bad : Prop} [Decidable bad] {e : ErrorClass} {u : State} {v : BitVec 16} {p : List Byte}
    (he : e ≠ .transport)
    (hs : expectedStatus s i = if s.isOpen = false ∨ s.gpioClaimed = false then 1#8
      else if bad then e.code else if s.linkOk = false then 4#8 else 0#8)
    (h : (∃ c, t = s.raise c ∧ (checkGpio s = some c ∨ checkGpio s = none ∧ bad ∧ c = e)) ∨
      (checkGpio s = none ∧ ¬ bad ∧ s.linkOk = false ∧ t = s.linkAsked.linkFailure (s.drivable i) (enablable i)) ∨
      (checkGpio s = none ∧ ¬ bad ∧ s.linkOk = true ∧ t = u.answerOk v p)) : EndsIn s i t := by
  have usable (hc : checkGpio s = none) : ¬ (s.isOpen = false ∨ s.gpioClaimed = false) := by
    simpa using (checkGpio_none_iff s).1 hc
  rcases h with ⟨c, rfl, hc | ⟨hc, hb, rfl⟩⟩ | ⟨hc, hb, hl, rfl⟩ | ⟨hc, hb, hl, rfl⟩
  · obtain ⟨rfl, hno⟩ := checkGpio_some hc
    exact .rejected (by decide) (hs.trans (if_pos hno))
  · exact .rejected he (by rw [hs, if_neg (usable hc), if_pos hb])
  · exact .linkBroken (by rw [hs, if_neg (usable hc), if_neg hb, if_pos hl])
  · exact .completed (State.answerOk_rsp ..) (by rw [hs, if_neg (usable hc), if_neg hb, if_neg (by simp [hl])])

theorem exec_gpioSetDirection_endsIn {m o : PinWord} (h : exec (.gpioSetDirection m o) s = .next t) :
    EndsIn s (.gpioSetDirection m o) t := bankOperation_endsIn (by decide) rfl (exec_gpioSetDirection_inv h)

theorem exec_gpioWrite_endsIn {v : PinWord} (h : exec (.gpioWrite v) s = .next t) : EndsIn s (.gpioWrite v) t :=
  bankOperation_endsIn (by decide) rfl (exec_gpioWrite_inv h)

theorem exec_gpioRead_endsIn (h : exec .gpioRead s = .next t) : EndsIn s .gpioRead t := by
  rcases exec_gpioRead_inv h with ⟨e, hc, rfl⟩ | ⟨hc, hl, rfl⟩ | ⟨hc, hl, rfl⟩
  · obtain ⟨rfl, hno⟩ := checkGpio_some hc
    exact .rejected (by decide) (if_pos hno)
  · obtain ⟨ho, hg⟩ := (checkGpio_none_iff s).1 hc
    exact .linkBroken (by simp [expectedStatus, ho, hg, hl])
  · obtain ⟨ho, hg⟩ := (checkGpio_none_iff s).1 hc
    exact .completed (State.answerOk_rsp ..) (by simp [expectedStatus, ho, hg, hl])

theorem exec_endsIn {i : Instr} (h : exec i s = .next t) : EndsIn s i t := by
  rcases isTransfer_or i with ⟨index, d, len, hi⟩ | ⟨n, rfl⟩ | ⟨index, freq, mode, order, rfl⟩ | rfl | rfl | ⟨m, o, rfl⟩ | ⟨v, rfl⟩ | rfl
  · exact exec_transfer_endsIn hi h
  · exact exec_configure_endsIn h
  · exact exec_getPort_endsIn h
  · exact exec_getGpio_endsIn h
  · exact exec_terminate_endsIn h
  · exact exec_gpioSetDirection_endsIn h
  · exact exec_gpioWrite_endsIn h
  · exact exec_gpioRead_endsIn h

/-- However an operation ends, it answers with the status of the table. -/
theorem EndsIn.answers {i : Instr} (h : EndsIn s i t) : ∃ r, t.rsp = some r ∧ r.word.extractLsb' 24 8 = expectedStatus s i := by
  cases h with
  | rejected _ hs => exact ⟨_, rfl, (errorResponse_status _).trans hs.symm⟩
  | noDevice _ hs => exact ⟨_, rfl, (errorResponse_status .configuration).trans hs.symm⟩
  | linkBroken hs => exact ⟨_, rfl, (errorResponse_status .transport).trans hs.symm⟩
  | completed ht hs => exact ⟨_, ht, (okResponse_status _ _).trans hs.symm⟩

theorem exec_status {i : Instr} {r : Response} (h : exec i s = .next t) (hr : t.rsp = some r) :
    r.word.extractLsb' 24 8 = expectedStatus s i := by
  obtain ⟨r', hr', hs⟩ := (exec_endsIn h).answers
  rwa [Option.some.inj (hr.symm.trans hr')]

/-- Settles O54: however it ends, an operation answers as `EndsIn` says. -/
theorem everyOperationAgainstEveryError : Obligations.EveryOperationAgainstEveryError := by
  unfold Obligations.EveryOperationAgainstEveryError
  intro s i
  obtain ⟨t, ht⟩ := exec_next i s
  obtain ⟨r, hr, hs⟩ := (exec_endsIn ht).answers
  exact ⟨t, r, ht, hr, hs⟩

/-! ### The errors before the link -/

/-- Settles O53: with status 1, 2 or 3 a check failed, or CONFIGURE found no device. -/
theorem errorsArePrecise : Obligations.ErrorsArePrecise := by
  unfold Obligations.ErrorsArePrecise
  intro s t i r h hr hstatus
  rw [exec_status h hr] at hstatus
  cases exec_endsIn h with
  | rejected _ _ =>
    obtain rfl := Option.some.inj hr
    exact ⟨rfl, fun _ => rfl⟩
  | @noDevice n hi _ =>
    obtain rfl := Option.some.inj hr
    exact ⟨rfl, fun hne => absurd hi (hne n)⟩
  | linkBroken hs => simp [hs] at hstatus
  | completed _ hs => simp [hs] at hstatus

/-! ### GpioConflictError -/

/-- A mask that is not within another has a 1 off it (R8). -/
theorem not_subset_iff (a b : PinWord) : a &&& ~~~b ≠ 0#16 ↔ ∃ p, a.getLsbD p = true ∧ b.getLsbD p = false := by
  rw [Ne, subset_iff]
  push Not
  simp only [Bool.not_eq_true]

theorem transferStatus_ne_three (index d : BitVec 8) (len : Nat) (s : State) : transferStatus index d len s ≠ 3#8 := by
  unfold transferStatus
  split_ifs <;> decide

theorem expectedStatus_gpioWrite_iff (s : State) (v : PinWord) : expectedStatus s (.gpioWrite v) = 3#8 ↔
    s.isOpen = true ∧ s.gpioClaimed = true ∧ v &&& ~~~s.dir ≠ 0#16 := by
  simp only [expectedStatus]
  split_ifs with hno hv
  · exact iff_of_false (by decide) fun ⟨ho, hg, _⟩ => by simp [ho, hg] at hno
  · obtain ⟨ho, hg⟩ : s.isOpen = true ∧ s.gpioClaimed = true := by simpa using hno
    exact iff_of_true rfl ⟨ho, hg, hv⟩
  all_goals exact iff_of_false (by decide) fun ⟨_, _, hv'⟩ => hv hv'

/-- Only GPIO_WRITE has a 3 in its row of the table (R188). -/
theorem expectedStatus_ne_three {i : Instr} (h : ∀ v, i ≠ .gpioWrite v) (s : State) : expectedStatus s i ≠ 3#8 := by
  cases i with
  | gpioWrite v => exact absurd rfl (h v)
  | spiWrite index data d => exact transferStatus_ne_three index d data.length s
  | spiRead index n d => exact transferStatus_ne_three index d n.toNat s
  | spiExchange index data n duplex d => exact transferStatus_ne_three index d _ s
  | terminate => exact (by decide : 0#8 ≠ 3#8)
  | configure | getPort | getGpio | gpioSetDirection | gpioRead =>
    simp only [expectedStatus]
    split_ifs <;> decide

/-- Settles O55: by the table's rows for GPIO_WRITE and GPIO_SET_DIRECTION. -/
theorem onlyGpioWriteConflicts : Obligations.OnlyGpioWriteConflicts := by
  unfold Obligations.OnlyGpioWriteConflicts
  intro s t i r h hr
  rw [exec_status h hr]
  refine ⟨⟨fun h3 => ?_, ?_⟩, ?_⟩
  · by_cases hi : ∀ v, i ≠ .gpioWrite v
    · exact absurd h3 (expectedStatus_ne_three hi s)
    · push Not at hi
      obtain ⟨v, rfl⟩ := hi
      obtain ⟨ho, hg, hv⟩ := (expectedStatus_gpioWrite_iff s v).1 h3
      exact ⟨v, rfl, ho, hg, (not_subset_iff v s.dir).1 hv⟩
  · rintro ⟨v, rfl, ho, hg, hv⟩
    exact (expectedStatus_gpioWrite_iff s v).2 ⟨ho, hg, (not_subset_iff v s.dir).2 hv⟩
  · rintro m o rfl ho hg hm
    simp [expectedStatus, ho, hg, (not_subset_iff m s.gpioClaim).2 hm]

/-! ### TransportError -/

theorem unknownSelect_lt {c : Params} {n k : Nat} (h : unknownSelect c n = some k) : k < c.csMax := by
  obtain ⟨-, hk⟩ := Option.filter_eq_some_iff.1 h
  exact of_decide_eq_true hk

theorem unknownSeq_j_le (c : Params) (n : Nat) : (unknownSeq c n).j ≤ (unknownSeq c n).n :=
  Nat.le_of_lt_succ (Nat.mod_lt _ (Nat.succ_pos _))

theorem unknownSeq_n_le (c : Params) (n : Nat) : (unknownSeq c n).n ≤ 8 * 2 * maxLen :=
  Nat.le_of_lt_succ (Nat.mod_lt _ (Nat.succ_pos _))

/-- A broken link frees `DRV` and `OE` within its masks alone (R184). -/
theorem linkFailure_drv {a : PinWord} {p : Nat} (b : PinWord) (s : State) (hp : a.getLsbD p = false) :
    (s.linkAsked.linkFailure a b).drv.getLsbD p = s.drv.getLsbD p := by
  refine (getLsbD_mergePins a _ s.drv p).trans ?_
  rw [hp]; rfl

theorem linkFailure_oe {b : PinWord} {p : Nat} (a : PinWord) (s : State) (hp : b.getLsbD p = false) :
    (s.linkAsked.linkFailure a b).oe.getLsbD p = s.oe.getLsbD p := by
  refine (getLsbD_mergePins b _ s.oe p).trans ?_
  rw [hp]; rfl

/-- With status 4 the link broke: every other end has another status. -/
theorem exec_eq_linkFailure_of_status {i : Instr} {r : Response} (h : exec i s = .next t) (hr : t.rsp = some r)
    (h4 : r.word.extractLsb' 24 8 = 4#8) : t = s.linkAsked.linkFailure (s.drivable i) (enablable i) := by
  rw [exec_status h hr] at h4
  cases exec_endsIn h with
  | @rejected e he hs =>
    rw [hs] at h4
    cases e with
    | transport => exact absurd rfl he
    | configuration | invalidArgument | gpioConflict => cases h4
  | noDevice _ hs => rw [hs] at h4; cases h4
  | linkBroken _ => rfl
  | completed _ hs => rw [hs] at h4; cases h4

/-- Settles O56: what a broken link leaves, latch by latch outside the pins the operation could have written. -/
theorem transportErrorKeepsTheRegisters : Obligations.TransportErrorKeepsTheRegisters := by
  unfold Obligations.TransportErrorKeepsTheRegisters
  intro s t i r _ h hr h4
  obtain rfl := exec_eq_linkFailure_of_status h hr h4
  refine ⟨?_, sameRegisters_linkFailure _ _ s, rfl, newEvents_linkFailure .., fun k hk => unknownSelect_lt hk,
    unknownSeq_j_le .., unknownSeq_n_le .., ?_, ?_, ?_, ?_, ?_⟩
  · exact Option.some.inj (hr.symm.trans (linkFailure_rsp ..))
  · intro hi
    exact pinWord_ext fun p _ => linkFailure_oe _ s (by rw [enablable_eq_zero hi]; exact BitVec.getLsbD_zero)
  · intro index d len hi p hp
    exact linkFailure_drv _ s (by rw [hi.drivable_eq, hp])
  · rintro m o rfl p hp
    exact ⟨linkFailure_oe _ s hp, linkFailure_drv _ s hp⟩
  · rintro v rfl p hp
    exact linkFailure_drv _ s hp
  · rintro rfl
    exact pinWord_ext fun p _ => linkFailure_drv _ s BitVec.getLsbD_zero

/-- Settles O60: TERMINATE closes the block, for which `Inv` is enough. -/
theorem terminateMakesTheRunSafeAgain : Obligations.TerminateMakesTheRunSafeAgain := by
  unfold Obligations.TerminateMakesTheRunSafeAgain
  exact fun s h => ⟨_, rfl, good_exec_terminate h rfl, rfl⟩

end Sys2Proof.Machine

/-! PROOFS. Reset and the hazards of use (70_reset_and_hazards.md): a reset whatever the block is doing (O9), how many micro-steps a
transfer has and which of them the environment sees (O27), and a pin that becomes an output again (O52). -/

namespace Sys2Proof.Machine

variable {s t : State}

/-! ### A reset whatever the block is doing -/

/-- The pin event of the reset itself (log 14, log 17). -/
def resetEvent : PinEvent := .micro ⟨0#16, 0#16, none, ⟨.idle, 0, 0, 0⟩, none⟩

theorem newEvents_resetInside (k : Nat) (s t : State) :
    newEvents s (resetInside k s t) = (newEvents s t).take k ++ [resetEvent] :=
  newEvents_of_history (List.append_assoc ..)

/-- Where the operation showed nothing on the pins, the reset alone is seen. -/
theorem newEvents_resetInside_of_quiet (k : Nat) (h : t.history = s.history) :
    newEvents s (resetInside k s t) = [resetEvent] := by
  rw [newEvents_resetInside, newEvents_of_history (h.trans (List.append_nil _).symm), List.take_nil, List.nil_append]

theorem atReset_resetInside (k : Nat) (s t : State) : AtReset (resetInside k s t) := by
  obtain ⟨h1, h2, h3, h4, h5, h6, h7, h8, h9, h10, h11⟩ := atReset_resetWith s.par
  exact ⟨h1, h2, h3, h4, h5, h6, h7, h8, h9, h10, h11⟩

theorem portRest_command {i : Instr} {rest : List Byte} (hd : decode s.cmdIn = .command i rest) : s.portRest = rest := by
  rw [State.portRest, hd]

theorem portRest_no_row {w : Word} {tail : List Byte} (hc : s.cmdIn = wordBytes w ++ tail)
    (h : ∀ o : Op, w &&& o.mask ≠ o.pattern) : s.portRest = tail := by
  rw [State.portRest, hc, decode_wordBytes]
  rcases decodeWord_of_no_row tail h with hd | hd <;> rw [hd]

section
variable {k : Nat} (hs : resetStep k s = .next (resetInside k s t))
include hs

/-- What the front of the port would have done decides what the reset finds. -/
theorem resetInside_eq_of_next {u : State} (h : runCommand s = .next u) : resetInside k s t = resetInside k s u := by
  rw [resetStep, h] at hs
  exact (Host.Outcome.next.inj hs).symm

theorem resetInside_eq_of_fault {f : Fault} (h : runCommand s = .fault f) :
    resetInside k s t = resetInside k s s.lostCommand := by
  rw [resetStep, h] at hs
  exact (Host.Outcome.next.inj hs).symm

/-- A reset while the block waits. -/
theorem resetInside_waiting (hd : decode s.cmdIn = .incomplete) :
    (resetInside k s t).cmdIn = s.cmdIn ∧ newEvents s (resetInside k s t) = [resetEvent] := by
  rw [resetInside_eq_of_next hs (runCommand_incomplete hd)]
  exact ⟨rfl, newEvents_resetInside_of_quiet k rfl⟩

/-- A reset at an illegal word. -/
theorem resetInside_no_row {w : Word} {tail : List Byte} (hc : s.cmdIn = wordBytes w ++ tail)
    (hno : ∀ o : Op, w &&& o.mask ≠ o.pattern) :
    (resetInside k s t).cmdIn = tail ∧ (s.faulted = false → newEvents s (resetInside k s t) = [resetEvent]) := by
  have hrun := runCommand_no_row hc hno
  cases hf : s.faulted with
  | false =>
    rw [hf, if_neg Bool.false_ne_true] at hrun
    rw [resetInside_eq_of_next hs hrun]
    exact ⟨rfl, fun _ => newEvents_resetInside_of_quiet k rfl⟩
  | true =>
    rw [hf, if_pos rfl] at hrun
    rw [resetInside_eq_of_fault hs hrun]
    exact ⟨portRest_no_row hc hno, fun h => nomatch h⟩

/-- A reset at a command. -/
theorem resetInside_command {i : Instr} {rest : List Byte} (hd : decode s.cmdIn = .command i rest) :
    (resetInside k s t).cmdIn = rest ∧
      (s.faulted = false ∨ i = .terminate → ∃ u, exec i { s with cmdIn := rest } = .next u ∧
        newEvents s (resetInside k s t) = (newEvents s u).take k ++ [resetEvent]) := by
  have hrun := runCommand_command hd
  by_cases hmay : s.faulted = true ∧ i ≠ .terminate
  · rw [if_pos hmay] at hrun
    rw [resetInside_eq_of_fault hs hrun]
    exact ⟨portRest_command hd, fun h => absurd hmay ((may_run_iff s i).2 h)⟩
  · obtain ⟨u, hu⟩ := exec_next i { s with cmdIn := rest }
    rw [if_neg hmay, hu] at hrun
    rw [resetInside_eq_of_next hs hrun]
    exact ⟨exec_cmdIn hu, fun _ => ⟨u, hu, newEvents_resetInside k s u⟩⟩

end

/-- Settles O9: `resetStep_next` gives the state after, which the front of the port then decides. -/
theorem resetInsideAnOperation : Obligations.ResetInsideAnOperation := by
  unfold Obligations.ResetInsideAnOperation
  intro s k hr
  obtain ⟨t, hs⟩ := resetStep_next k s
  exact ⟨_, (step_of_reset hr).trans hs, rfl, atReset_resetInside k s t, rfl, rfl, rfl, resetInside_waiting hs,
    fun _ _ => resetInside_no_row hs, fun _ _ => resetInside_command hs⟩

/-! ### How many micro-steps a transfer has -/

/-- The micro-steps of one pulse (R124). -/
def pulseSteps (m : Mode) : Nat := if cpha m = false then 3 else 2

theorem pulse_history_length (m : Mode) (b : Bool) (s : State) :
    (pulse m b s).2.history.length = s.history.length + pulseSteps m := by
  cases m <;> simp [pulse, pulseSteps, cpha, State.sampleMiso]

theorem shiftBits_history_length (m : Mode) (o : List Bool) (s : State) :
    (shiftBits m o s).2.history.length = s.history.length + pulseSteps m * o.length := by
  induction o generalizing s with
  | nil => rfl
  | cons b rest ih =>
    rw [shiftBits, ih, pulse_history_length, List.length_cons, Nat.mul_succ]
    omega

/-- T1, T2, T4 and T5 are the other four. -/
theorem xfer_history_length (k : Nat) (o : List Bool) (s : State) :
    (xfer k o s).2.history.length = s.history.length + (4 + pulseSteps (s.portAt k).mode * o.length) := by
  simp only [xfer_snd, parkStep, deselectStep, setupStep, State.record_history, State.pinDrive_history, selectStep_history,
    shiftBits_history_length, List.length_append, List.length_singleton]
  omega

theorem newEvents_xfer_length (k : Nat) (o : List Bool) (s : State) : (newEvents s (xfer k o s).2).length
    = if cpha (s.portAt k).mode = false then 4 + 3 * o.length else 4 + 2 * o.length := by
  rw [newEvents, List.length_drop, xfer_history_length, Nat.add_sub_cancel_left, pulseSteps]
  split <;> rfl

/-! ### Which micro-steps of a transfer the environment sees

On the way of a transfer the pins differ from those before it at clock, data out and the select alone. So a micro-step is seen exactly
if it changes one of these three levels, and they stand in the trace of R124. -/

/-- Clock, data out and select. -/
def BusView.levels (v : BusView) : Bool × Bool × Bool := (v.sck, v.mosi, v.select)

def Pins.busLevels (c : Params) (k : Nat) (x : Pins) : Bool × Bool × Bool :=
  (x.drv.getLsbD c.sckPin, x.drv.getLsbD c.mosiPin, x.drv.getLsbD (c.csPin k))

/-- Which micro-steps of a trace change a level, the levels before them being `before`. -/
def levelChanges : Bool × Bool × Bool → List BusView → List Bool
  | _, [] => []
  | before, v :: rest => (before != v.levels) :: levelChanges v.levels rest

theorem levels_bne (a b c a' b' c' : Bool) : ((a, b, c) != (a', b', c')) = (a != a' || b != b' || c != c') := by
  decide +revert

/-- The pins are those of `s` but for the bus of port `k`. -/
def SameOffBus (k : Nat) (s : State) (x : Pins) : Prop :=
  x.oe = s.oe ∧ ∀ p, p ≠ s.par.sckPin → p ≠ s.par.mosiPin → p ≠ s.par.csPin k → x.drv.getLsbD p = s.drv.getLsbD p

theorem SameOffBus.eq_iff_levels {k : Nat} {x y : Pins} (hx : SameOffBus k s x) (hy : SameOffBus k s y) :
    x = y ↔ x.busLevels s.par k = y.busLevels s.par k := by
  refine ⟨fun h => h ▸ rfl, fun h => ?_⟩
  obtain ⟨hxo, hxd⟩ := hx
  obtain ⟨hyo, hyd⟩ := hy
  simp only [Pins.busLevels, Prod.mk.injEq] at h
  obtain ⟨hsck, hmosi, hcs⟩ := h
  have hdrv : x.drv = y.drv := pinWord_ext fun p _ => by
    by_cases h1 : p = s.par.sckPin
    · rw [h1, hsck]
    by_cases h2 : p = s.par.mosiPin
    · rw [h2, hmosi]
    by_cases h3 : p = s.par.csPin k
    · rw [h3, hcs]
    rw [hxd p h1 h2 h3, hyd p h1 h2 h3]
  exact congrArg₂ Pins.mk hdrv (hxo.trans hyo.symm)

/-- The environment sees those events of a transfer that change a level in their trace. -/
theorem sights_isSome_eq_levelChanges {k : Nat} {events : List PinEvent} {trace : List BusView} {x : Pins}
    (hx : SameOffBus k s x) (hoff : ∀ e ∈ events, OffBusEvent k s e)
    (hview : events.map (PinEvent.view s.par k) = trace.map some) :
    (sights (some x) events).map Option.isSome = levelChanges (x.busLevels s.par k) trace := by
  induction events generalizing x trace with
  | nil =>
    obtain rfl := List.map_eq_nil_iff.1 hview.symm
    rfl
  | cons e rest ih =>
    obtain ⟨hhead, hrest⟩ := List.forall_mem_cons.1 hoff
    obtain ⟨m, rfl, hoe, -, hdrv⟩ := hhead
    obtain ⟨v, trace, rfl, hv, htrace⟩ := List.map_eq_cons_iff.1 hview.symm
    have hm : SameOffBus k s m.pins := ⟨hoe, hdrv⟩
    have hlevels : v.levels = m.pins.busLevels s.par k := by
      obtain rfl := Option.some.inj hv
      rfl
    rw [sights, List.map_cons, ih hm hrest htrace.symm, levelChanges, hlevels]
    congr 1
    by_cases h : x = m.pins
    · simp [h]
    · simp [h, mt (hx.eq_iff_levels hm).2 h]

/-- The levels change in a train of pulses as R125 says, and it ends with the clock at its idle level and data out at the last bit. -/
theorem levelChanges_pulsesTrace (c : Params) (k n : Nat) (m : Mode) (mosi : Bool) (j : Nat) (o : List Bool) (after : List BusView) :
    levelChanges (cpol m, mosi, c.csActive) (pulsesTrace c k n m j o ++ after)
      = pulsesShow m mosi o ++ levelChanges (cpol m, o.getLastD mosi, c.csActive) after := by
  induction o generalizing mosi j with
  | nil => rfl
  | cons b rest ih =>
    rw [pulsesTrace, pulsesShow, List.append_assoc, List.append_assoc, List.getLastD_cons, ← ih b (j + 1)]
    cases m <;> simp [pulseTrace, levelChanges, BusView.levels, levels_bne, cpha, cpol, bne_comm (a := mosi)]

theorem levelChanges_xferTrace (c : Params) (k : Nat) (m : Mode) (sck0 mosi0 select0 : Bool) (active0 : Option Nat) (o : List Bool) :
    levelChanges (sck0, mosi0, select0) (xferTrace c k m select0 active0 o) = xferShows c m sck0 mosi0 select0 o := by
  simp [xferTrace, xferShows, levelChanges, BusView.levels, levels_bne, levelChanges_pulsesTrace]

theorem sights_newEvents_xfer {k : Nat} (o : List Bool) (hp : BusPins s.par k) :
    (sights (some s.pins) (newEvents s (xfer k o s).2)).map Option.isSome
      = xferShows s.par (s.portAt k).mode (s.drv.getLsbD s.par.sckPin) (s.drv.getLsbD s.par.mosiPin)
          (s.drv.getLsbD (s.par.csPin k)) o := by
  have hs : SameOffBus k s s.pins := ⟨rfl, fun _ _ _ _ => rfl⟩
  rw [sights_isSome_eq_levelChanges hs (fun _ => offBusEvent_of_mem_newEvents_xfer o hp) (view_newEvents_xfer o hp)]
  exact levelChanges_xferTrace ..

/-- As long as the link holds, no two neighbours of what the environment sees are equal: equal ones are merged (R125). -/
theorem isChain_environmentView {events : List PinEvent} (h : ∀ e ∈ events, ∃ m, e = .micro m) (x : Pins) :
    (.pins x :: environmentView (some x) events).IsChain (· ≠ ·) := by
  induction events generalizing x with
  | nil => exact .singleton _
  | cons e rest ih =>
    obtain ⟨⟨m, rfl⟩, hrest⟩ := List.forall_mem_cons.1 h
    by_cases hx : x = m.pins
    · rw [environmentView_same rest (congrArg some hx), hx]
      exact ih hrest m.pins
    · rw [environmentView_change rest (fun heq => hx (Option.some.inj heq))]
      exact List.isChain_cons_cons.2 ⟨fun heq => hx (Sight.pins.inj heq), ih hrest m.pins⟩

/-- Settles O27: the count by `newEvents_xfer_length`, what is seen by the levels of the trace of R124. -/
theorem xferMicroStepCount : Obligations.XferMicroStepCount := by
  unfold Obligations.XferMicroStepCount
  intro s k o
  refine ⟨newEvents_xfer_length k o s, fun h hk => ?_⟩
  have hp := Params.busPins h.parValid hk
  refine ⟨sights_newEvents_xfer o hp, fun before after a b heq => ?_⟩
  have hmicro : ∀ e ∈ newEvents s (xfer k o s).2, ∃ m, e = .micro m := fun e he =>
    (offBusEvent_of_mem_newEvents_xfer o hp he).imp fun _ hm => hm.1
  exact List.isChain_iff_forall_rel_of_append_cons_cons.1 (isChain_environmentView hmicro s.pins) heq

/-! ### A pin that becomes an output again -/

theorem BankReady.exec_gpioSetDirection_of_claimed {m : PinWord} (h : BankReady s)
    (hm : ∀ p, m.getLsbD p = true → s.gpioClaim.getLsbD p = true) (o : PinWord) :
    exec (.gpioSetDirection m o) s = .next ((s.linkAsked.setDirection m o).answerOk 0#16 []) :=
  (h.exec_gpioSetDirection m o).trans (congrArg _ (if_neg (not_not.2 ((subset_iff _ _).2 hm))))

/-- A named pin that is made an input is released, and its bit of `OUT` cleared (R160). -/
theorem setDirection_input {m o : PinWord} {p : Nat} (hm : m.getLsbD p = true) (ho : o.getLsbD p = false) (s : State) :
    (s.setDirection m o).oe.getLsbD p = false ∧ (s.setDirection m o).out.getLsbD p = false := by
  have hdir : (s.setDirection m o).dir.getLsbD p = false := by rw [getLsbD_setDirection_dir, if_pos hm, ho]
  constructor
  · rw [getLsbD_setDirection_oe, if_pos hm, hdir]
  · rw [getLsbD_setDirection_out, hdir, Bool.and_false]

/-- A named pin that is made an output drives its bit of `OUT` (R160). -/
theorem setDirection_output {m o : PinWord} {p : Nat} (hm : m.getLsbD p = true) (ho : o.getLsbD p = true) (s : State) :
    (s.setDirection m o).oe.getLsbD p = true ∧ (s.setDirection m o).drv.getLsbD p = s.out.getLsbD p := by
  have hdir : (s.setDirection m o).dir.getLsbD p = true := by rw [getLsbD_setDirection_dir, if_pos hm, ho]
  constructor
  · rw [getLsbD_setDirection_oe, if_pos hm, hdir]
  · rw [getLsbD_setDirection_drv, hm, hdir, Bool.and_self, if_pos rfl, getLsbD_setDirection_out, hdir, Bool.and_true]

/-- Settles O52: what the pin drives as an output again is its bit of `OUT`, which making it an input has cleared. -/
theorem returningOutputDrivesZero : Obligations.ReturningOutputDrivesZero := by
  unfold Obligations.ReturningOutputDrivesZero
  intro s p hs hp
  have hbit : (pinBit p).getLsbD p = true := (getLsbD_pinBit p p).trans (decide_eq_true ⟨rfl, BitVec.lt_of_getLsbD hp⟩)
  have hclaim : ∀ q, (pinBit p).getLsbD q = true → s.gpioClaim.getLsbD q = true := by
    intro q hq
    rw [getLsbD_pinBit, decide_eq_true_eq] at hq
    exact hq.1 ▸ hp
  obtain ⟨hreleased, hcleared⟩ := setDirection_input hbit (BitVec.getLsbD_zero (i := p)) s.linkAsked
  refine ⟨_, hs.exec_gpioSetDirection_of_claimed hclaim 0#16, hreleased, fun hl => ?_⟩
  obtain ⟨ho, hc, -⟩ := hs
  have hready : BankReady ((s.linkAsked.setDirection (pinBit p) 0#16).answerOk 0#16 []) := ⟨ho, hc, hl⟩
  obtain ⟨hdriven, hlevel⟩ := setDirection_output hbit hbit
    ((s.linkAsked.setDirection (pinBit p) 0#16).answerOk 0#16 []).linkAsked
  exact ⟨_, hready.exec_gpioSetDirection_of_claimed hclaim (pinBit p), hdriven, hlevel.trans hcleared⟩

end Sys2Proof.Machine
